-- ==== Sys2Proof/Word.lean ====
section
/-! DEFINITION. The word types of HFIR (spec/00_scope.md R6, R8, R11). -/

namespace Sys2Proof

/-- A pixel or a byte of memory: unsigned 8 bits (R6 `PIX_BITS`, R36). -/
abbrev Byte := BitVec 8

/-- One element of a packed coefficient window: the pattern of a signed 8-bit value (R29). -/
abbrev Elem := BitVec 8

/-- A coefficient register `TAP[k]`: the pattern of a signed 16-bit value (R26). -/
abbrev Tap := BitVec 16

/-- A value carried by the register interface: `XW = max(AW, 32)` bits with `AW <= 64` (R7), so at most 64. -/
abbrev HostValue := BitVec 64

end Sys2Proof
end

