-- ==== Sys2Proof/Syntax.lean ====
section
/-! DEFINITION. The commands of HFIR: one constructor per row of spec/opcode_table.json (R72). -/

namespace Sys2Proof

/-- A command (R72). `width` is a count of pixels, the command's only immediate, "used as it stands: not
sign-extended, not scaled, not shifted, not biased" (R73). -/
inductive Instr where
  /-- `PACK`: build the packed coefficient windows (R92). -/
  | pack
  /-- `FIRS width`: the scalar filter (R101). -/
  | firs (width : Nat)
  /-- `FIRV width`: the vector filter (R141). -/
  | firv (width : Nat)
  deriving DecidableEq, Repr

end Sys2Proof
end

