-- ==== Sys2Proof/WellFormed.lean ====
section
/-! DEFINITION. Which terms of `Instr` have an encoding: `width` is an unsigned 16-bit field (R71, R73). -/

namespace Sys2Proof

/-- R71, R73: `width` is `v[23:8]`, an unsigned integer 0..65535. `FIRV` with an unsupported width is well formed: it
"decodes as `FIRV`" and aborts (R74). -/
abbrev Instr.WellFormed : Instr → Prop
  | .pack => True
  | .firs width => width < 65536
  | .firv width => width < 65536

end Sys2Proof
end

