-- ==== Sys2Proof/Decode.lean ====
section
/-! DEFINITION. Command words (spec/30_encoding.md): the decoder, total on every value the register interface can carry and
rejecting by name; the encoder; the opcode table as data. -/

namespace Sys2Proof

/-- Why a value written to `CMD` is an illegal command word; one name for each clause of R75. -/
inductive DecodeReject where
  /-- "the value written to `CMD` has a non-zero bit above bit 31 (possible only when `XW > 32`)" -/
  | bitsAbove31
  /-- "`rsv` is not 0" -/
  | reservedBits
  /-- "`op = PACK` and `width` is not 0" -/
  | packWidth
  /-- "`op` is 0x00 or 0x04..0xFF" -/
  | noSuchOpcode
  deriving DecidableEq, Repr

/-- R71: the field `op`, bits 7:0. -/
def fieldOp (v : HostValue) : Nat := (v.extractLsb' 0 8).toNat

/-- R71, R73: the field `width`, bits 23:8, unsigned. -/
def fieldWidth (v : HostValue) : Nat := (v.extractLsb' 8 16).toNat

/-- R71: the field `rsv`, bits 31:24. -/
def fieldRsv (v : HostValue) : Nat := (v.extractLsb' 24 8).toNat

/-- R31: the bits above the 32-bit command word. -/
def fieldAbove (v : HostValue) : Nat := (v.extractLsb' 32 32).toNat

/-- R71, R72, R75: the command a value written to `CMD` stands for, or the clause of R75 it breaks. -/
def decode (v : HostValue) : Except DecodeReject Instr :=
  if fieldAbove v ≠ 0 then .error .bitsAbove31
  else if fieldRsv v ≠ 0 then .error .reservedBits
  else match fieldOp v with
    | 1 => if fieldWidth v ≠ 0 then .error .packWidth else .ok .pack
    | 2 => .ok (.firs (fieldWidth v))
    | 3 => .ok (.firv (fieldWidth v))
    | _ => .error .noSuchOpcode

/-- R72: the opcode value of a command. -/
def opcodeOf : Instr → Nat
  | .pack => 0x01
  | .firs _ => 0x02
  | .firv _ => 0x03

/-- R71 format `C`: `rsv` in bits 31:24, `width` in bits 23:8, `op` in bits 7:0. -/
def formatC (rsv : BitVec 8) (width : BitVec 16) (op : BitVec 8) : BitVec 32 := rsv ++ width ++ op

/-- R71, R72: the 32-bit command word. -/
def encode (i : Instr) : BitVec 32 :=
  match i with
  | .pack => formatC 0 0 (BitVec.ofNat 8 (opcodeOf .pack))
  | .firs width => formatC 0 (BitVec.ofNat 16 width) (BitVec.ofNat 8 (opcodeOf (.firs width)))
  | .firv width => formatC 0 (BitVec.ofNat 16 width) (BitVec.ofNat 8 (opcodeOf (.firv width)))

/-- A command word as the register interface carries it, zero-extended to the widest `XW` (R31). -/
def commandValue (word : BitVec 32) : HostValue := word.setWidth 64

/-- One row of R72's table: a word `v` selects the row when `v & mask = match`. -/
structure OpcodeRow where
  mnemonic : String
  mask : BitVec 32
  pattern : BitVec 32
  deriving DecidableEq, Repr

/-- R72: the row of `PACK`. -/
def rowPack : OpcodeRow := ⟨"PACK", 0xFFFFFFFF#32, 0x00000001#32⟩
/-- R72: the row of `FIRS`. -/
def rowFirs : OpcodeRow := ⟨"FIRS", 0xFF0000FF#32, 0x00000002#32⟩
/-- R72: the row of `FIRV`. -/
def rowFirv : OpcodeRow := ⟨"FIRV", 0xFF0000FF#32, 0x00000003#32⟩

/-- R72's table of full 32-bit patterns. -/
def opcodeTable : List OpcodeRow := [rowPack, rowFirs, rowFirv]

/-- R72: the row whose mnemonic is the command's. -/
def rowOf : Instr → OpcodeRow
  | .pack => rowPack
  | .firs _ => rowFirs
  | .firv _ => rowFirv

/-- R72: "a word `v` selects the row when `v & mask = match`". -/
def OpcodeRow.selects (r : OpcodeRow) (v : BitVec 32) : Bool := v &&& r.mask == r.pattern

/-- The command the decoder reads from a command whose `nbits` table bits are `w`, bit 0 the least significant; the bits
above `nbits` are 0. HFIR has one command length, 32 bits (R70). -/
def decodeTableWord (nbits w : Nat) : Option Instr :=
  if w % 2 ^ nbits < 2 ^ 64 then
    match decode (BitVec.ofNat 64 (w % 2 ^ nbits)) with
    | .ok i => some i
    | .error _ => none
  else none

end Sys2Proof
end

