-- ==== Sys2Proof/Config.lean ====
section
/-! DEFINITION. What an implementation fixes: the parameters of R6, the bounds of R7, and the values the spec leaves
open, which are constants with no body (free values). -/

namespace Sys2Proof

/-- R6 `SCALE_BITS`: coefficients are scaled by `2^7`. -/
abbrev Config.scaleBits : Nat := 7

/-- R6 `PIXEL_MIN`, `PIXEL_MAX`: the clamp range of an output pixel. -/
abbrev Config.pixelMin : Int := 0
abbrev Config.pixelMax : Int := 255

/-- R6 `UNITY`: the sum of a valid tap set; no command checks it (R34). -/
abbrev Config.unity : Int := 128

/-- R6 `WIN_LEN`: elements in one packed coefficient window. -/
abbrev Config.winLen : Nat := 16

/-- R6 `WIN_SHIFT`: positions by which window1's taps are shifted from window0's. -/
abbrev Config.winShift : Nat := 2

/-- R6 `LOAD_BYTES`: bytes in one vector source load. -/
abbrev Config.loadBytes : Nat := 16

/-- R6 `TILE`: output pixels of one base-case invocation. -/
abbrev Config.tile : Nat := 4

/-- R6 `WIDTHS`: the block widths the vector filter supports. -/
abbrev Config.widths : List Nat := [4, 8, 16, 32, 64]

/-- R7 `AW`: the default address width, 32 (log entry 7). -/
abbrev Config.defaultAddressWidth : Nat := 32

/-- R7 `AW`: the least and the greatest address width. -/
abbrev Config.minAddressWidth : Nat := 8
abbrev Config.maxAddressWidth : Nat := 64

/-- FREE VALUE (log entry 4). What the `n`-th host read of a register with an unspecified value returns, before it is cut
to the register's width (R39, R28, 93 U1 and U2: "any value"). -/
opaque Config.freeValue : Nat → HostValue

/-- FREE VALUE (log entry 6). The `n`-th byte that an abort with cause 2 or 3 leaves in a write footprint (R179, 93 U3: "any value"). -/
opaque Config.freeByte : Nat → Byte

/-- FREE VALUE (log entry 5). What the byte at an address holds before anything has written it (R38: "contents before the host
writes them are unspecified"). -/
opaque Config.unwrittenByte : Nat → Byte

/-- OPEN PARAMETER `SIGNAL_SPAN(tapsNum)` (R33, D29): defined in words, never valued, read by no rule (log entry 17). -/
opaque Config.signalSpan : Nat → Int

/-- OPEN PARAMETER `next_random` of the test environment (R152, D38): the value drawn at a position of the sequence of a
seed (log entry 17). -/
opaque Config.nextRandom : (seed : Nat) → (position : Nat) → Nat

end Sys2Proof
end

