-- ==== Sys2Proof/Machine/State.lean ====
section
/-! DEFINITION. The state of HFIR and of the host beside it, as plain data (spec/10_state.md R20; R24 for the host's list of
operations; R41 and R56 for the platform's parameters), the reasons to stop, and the state after `Reset`. -/

namespace Sys2Proof.Machine

/-- R171: the causes of a `ContractViolation`, the only exception HFIR raises. -/
inductive Cause where
  | unsupportedWidth | srcMargin | dstAccess | illegalCmd | badTapsnum | windowsInvalid | tapRange | illegalReg
  deriving DecidableEq, Repr

/-- R21: the registers of the numbered file `x[0..63]`. -/
inductive Reg where
  | cmd | status | src | dst | tapsnum
  | tap (k : Fin 12)
  | w0 (j : Fin 16)
  | w1 (j : Fin 16)
  deriving DecidableEq, Repr

/-- A run of byte addresses `base .. base + len - 1` that the platform lends to the block (R56). -/
structure Region where
  base : Nat
  len : Nat
  deriving DecidableEq, Repr

/-- A footprint (R13) before it is known to lie in memory: `len` addresses from `base`, computed over the integers (R51). -/
structure Span where
  base : Int
  len : Nat
  deriving DecidableEq, Repr

/-- The parameters of the platform (R41): no operation changes them. `aw` is `AW`, the address width, 8 to 64 (R7);
`readable` and `writable` list the addresses at which `Readable(a)` and `Writable(a)` hold (R56). DESIGN CHOICE (log
entries 7 and 8): they stand in the state, so that every statement about every state holds for every platform. -/
structure Platform where
  aw : Nat
  readable : List Region
  writable : List Region
  deriving DecidableEq, Repr

/-- Memory (R36, R50) as the list of the bytes that have been written, addresses strictly rising. -/
abbrev Memory := List Host.Cell

/-- What the host can do: its three operations on the block (R22), and its direct accesses to memory, "not through HFIR"
(R50, R78). -/
inductive HostOp where
  /-- `CsrWrite(n, v)` -/
  | csrWrite (n : Nat) (v : HostValue)
  /-- `CsrRead(n)` -/
  | csrRead (n : Nat)
  /-- `Reset` (R200) -/
  | reset
  /-- the host stores bytes directly to memory (R50, R78 `mem[<addr>..] = ...`) -/
  | memStore (addr : Nat) (bytes : List Byte)
  /-- the host reads `n` bytes directly from memory (R50, R163 "direct memory reads") -/
  | memLoad (addr : Nat) (n : Nat)
  deriving DecidableEq, Repr

/-- The machine stops with a fault. -/
inductive Fault where
  /-- Raised by the host's direct memory accesses (`hostStore`, `hostLoad`) that touch an address outside the `2^AW` bytes of
  memory (R36): there is no such byte. Safe: the machine stops where there is nothing to access. -/
  | hostAddressOutsideMemory
  deriving DecidableEq, Repr

/-- The model gives the operation no meaning. -/
inductive Refusal where
  /-- Raised by no arm of this model: an instruction without a meaning yet. Safe. -/
  | notModelled (mnemonic : String)
  /-- Raised by `PACK`, `FIRS`, `FIRV` when a register they read has not been written since `Reset`; `number` is its register
  number. The spec's own treatment: "A model shall treat a command that reads such a register before the host has
  written it ... as *refused*, not as reading zero" (R39). Safe. -/
  | registerNeverWritten (number : Nat)
  /-- Raised by `FIRS` and `FIRV`: "a model shall *refuse* a command whose footprint would wrap" (R51). Safe. -/
  | footprintWraps
  /-- Raised by `FIRS` and `FIRV`: "a model shall *refuse* a `FIRS` or `FIRV` command whose footprints (rules R58, R59)
  intersect, giving it no meaning" (R63). Safe. -/
  | footprintsIntersect
  deriving DecidableEq, Repr

/-- The whole state. The first group is R20's; `srcWritten` to `freeNext` are the model's own (log entries 3, 4), `platform` the
parameters of R41, and the rest the host's (R24, log entry 10). -/
structure State where
  /-- `SRC`, an unsigned `AW`-bit byte address (R23) -/
  src : HostValue
  /-- `DST`, an unsigned `AW`-bit byte address (R23) -/
  dst : HostValue
  /-- `TAPSNUM`, 4 bits unsigned (R27) -/
  tapsnum : BitVec 4
  /-- `TAP[0..11]`, 16 bits signed (R26) -/
  taps : Vector Tap 12
  /-- `W0[0..15]`, 8 bits signed (R28) -/
  w0 : Vector Elem 16
  /-- `W1[0..15]`, 8 bits signed (R28) -/
  w1 : Vector Elem 16
  /-- `STATUS.WVALID` (R25, R30) -/
  wvalid : Bool
  /-- `STATUS.ABORT` (R25) -/
  abort : Bool
  /-- `STATUS.CAUSE`, 4 bits (R25, R171) -/
  cause : BitVec 4
  /-- memory, `2^AW` bytes (R36) -/
  mem : Memory
  /-- the host has written `SRC` since `Reset` (R39) -/
  srcWritten : Bool
  /-- the host has written `DST` since `Reset` (R39) -/
  dstWritten : Bool
  /-- the host has written `TAP[k]` since `Reset` (R39) -/
  tapsWritten : Vector Bool 12
  /-- how many free values have been drawn (log entry 4) -/
  freeNext : Nat
  /-- the platform's parameters (R41) -/
  platform : Platform
  /-- the host's program: "a finite list of host operations" (R24) -/
  program : List HostOp
  /-- "with an index that the *host* agent advances by one after each operation" (R24) -/
  index : Nat
  /-- the values the host's reads have returned to it, oldest first (R22) -/
  returned : List HostValue
  deriving DecidableEq, Repr

/-- The platform of `State.reset`: `AW = 32` (R7's default), every address readable and writable ("unless a vector says
otherwise", spec/95_test_vectors.md). DESIGN CHOICE (log entries 7 and 8). -/
def Platform.default : Platform :=
  { aw := Config.defaultAddressWidth
    readable := [⟨0, 2 ^ Config.defaultAddressWidth⟩]
    writable := [⟨0, 2 ^ Config.defaultAddressWidth⟩] }

/-- The state after `Reset` (R38, R200), with nothing in memory and no program loaded. `STATUS` and `TAPSNUM` are the spec's;
`SRC`, `DST`, `TAP`, `W0`, `W1` are unspecified there and 0 here. DESIGN CHOICE (log entry 2): no operation can show
those zeros, because a command that would read one is refused and a host read returns a free value. -/
def State.reset : State :=
  { src := 0
    dst := 0
    tapsnum := 0
    taps := Vector.replicate 12 0
    w0 := Vector.replicate 16 0
    w1 := Vector.replicate 16 0
    wvalid := false
    abort := false
    cause := 0
    mem := []
    srcWritten := false
    dstWritten := false
    tapsWritten := Vector.replicate 12 false
    freeNext := 0
    platform := Platform.default
    program := []
    index := 0
    returned := [] }

end Sys2Proof.Machine
end

