-- ==== Sys2Proof/Machine/Arith.lean ====
section
/-! DEFINITION. The arithmetic primitives of R9 and R10, over the mathematical integers. -/

namespace Sys2Proof.Machine

/-- R9 `trunc_N(v)` on an unsigned value: `v mod 2^N`. -/
def truncTo (bits : Nat) (v : HostValue) : HostValue := BitVec.ofNat 64 (v.toNat % 2 ^ bits)

/-- R9 `v >>a n`: the arithmetic right shift, `floor(v / 2^n)`, for negative `v` too. -/
def shiftRightArith (v : Int) (n : Nat) : Int := v / 2 ^ n

/-- R9 `clamp(v, lo, hi)`. -/
def clamp (v lo hi : Int) : Int := if v < lo then lo else if hi < v then hi else v

/-- R9 `sat16(v)`. -/
def sat16 (v : Int) : Int := clamp v (-32768) 32767

/-- R9 `satu8(v)`. -/
def satu8 (v : Int) : Int := clamp v Config.pixelMin Config.pixelMax

/-- R10 `round_power_of_two(v, n) = (v + 2^(n-1)) >>a n`, "rounding to nearest with ties rounding up". -/
def roundPowerOfTwo (v : Int) (n : Nat) : Int := shiftRightArith (v + 2 ^ (n - 1)) n

/-- The byte that holds an integer of 0..255. -/
def byteOf (v : Int) : Byte := BitVec.ofInt 8 v

end Sys2Proof.Machine
end

