-- ==== Sys2Proof/Machine/Flags.lean ====
section
/-! DEFINITION. `STATUS` (R25), the cause codes (R171) and the window-valid flag (R30). HFIR has no other flag: "saturation and
clamping are silent" (R25). -/

namespace Sys2Proof.Machine

/-- R171: the code recorded in `STATUS.CAUSE`. -/
def causeCode : Cause → BitVec 4
  | .unsupportedWidth => 1
  | .srcMargin => 2
  | .dstAccess => 3
  | .illegalCmd => 4
  | .badTapsnum => 5
  | .windowsInvalid => 6
  | .tapRange => 7
  | .illegalReg => 8

/-- R25: `STATUS` as read: `ABORT` bit 0, `WVALID` bit 1, bits 3:2 zero, `CAUSE` bits 7:4, bits 31:8 zero. -/
def statusWord (s : State) : BitVec 32 :=
  0#24 ++ s.cause ++ 0#2 ++ BitVec.ofBool s.wvalid ++ BitVec.ofBool s.abort

/-- R30: `WVALID <- 0`, the side effect of every write to `TAPSNUM` or a `TAP[k]`. -/
def State.windowsStale (s : State) : State := { s with wvalid := false }

/-- R178: the effect of `raise ContractViolation(cause)` on the state: `CAUSE` and `ABORT`, and nothing else. -/
def State.aborted (c : Cause) (s : State) : State := { s with cause := causeCode c, abort := true }

end Sys2Proof.Machine
end

