-- ==== Sys2Proof/Machine/Ops.lean ====
section
/-! DEFINITION. The named operations the meanings share: bytes of memory, `MemRead` and `MemWrite` (R53, R54), taking an abort
(R178, R179) and `Reset` (R200), which is the only return from one (R182). -/

namespace Sys2Proof.Machine

/-- What one step answers. -/
abbrev Answer := Host.Outcome State Fault Refusal

/-! ### Bytes of memory (R36, R50) -/

/-- The canonical form: addresses strictly rising. An unlisted address reads as `none` (nothing has written it), so no entry
can equal what an unlisted address reads as (log entry 5). -/
abbrev Memory.wf (m : Memory) : Prop := m.Pairwise (fun x y => x.1 < y.1)

/-- Every listed byte is one of the `2^AW` bytes (R36). -/
abbrev Memory.within (aw : Nat) (m : Memory) : Prop := ∀ c ∈ m, c.1 < 2 ^ aw

/-- What the list says of an address: the byte written there, or `none`. -/
def Memory.lookup : Memory → Nat → Option Byte
  | [], _ => none
  | (x, b) :: rest, a => if a = x then some b else Memory.lookup rest a

/-- The byte at an address: the one last written (R62), or a free value of that address where nothing has been written
(R38, log entry 5). -/
def Memory.byteAt (m : Memory) (a : Nat) : Byte := (Memory.lookup m a).getD (Config.unwrittenByte a)

/-- Write one byte, keeping the canonical form. -/
def Memory.store : Memory → Nat → Byte → Memory
  | [], a, b => [(a, b)]
  | (x, y) :: rest, a, b =>
    if a < x then (a, b) :: (x, y) :: rest
    else if a = x then (a, b) :: rest
    else (x, y) :: Memory.store rest a b

/-- Write consecutive bytes: byte `j` of the list at `a + j` (R52). -/
def Memory.storeBytes : Memory → Nat → List Byte → Memory
  | m, _, [] => m
  | m, a, b :: bs => Memory.storeBytes (Memory.store m a b) (a + 1) bs

/-- The `n` bytes from `a` on, lowest address first (R52). -/
def Memory.bytesAt (m : Memory) : Nat → Nat → List Byte
  | _, 0 => []
  | a, n + 1 => Memory.byteAt m a :: Memory.bytesAt m (a + 1) n

/-! ### The platform's permissions (R56) and the block's accesses (R53, R54) -/

/-- An address lies in a region. -/
def Region.covers (r : Region) (a : Nat) : Bool := r.base ≤ a && a < r.base + r.len

/-- R56 `Readable(a)`. -/
def Platform.canRead (p : Platform) (a : Nat) : Bool := p.readable.any (fun r => Region.covers r a)

/-- R56 `Writable(a)`. -/
def Platform.canWrite (p : Platform) (a : Nat) : Bool := p.writable.any (fun r => Region.covers r a)

/-- R53 `MemRead(addr, n)`: the bytes in ascending address order, or `SRC_MARGIN` at a byte that is not readable. -/
def memRead (p : Platform) (m : Memory) : Nat → Nat → Except Cause (List Byte)
  | _, 0 => .ok []
  | a, n + 1 =>
    if Platform.canRead p a then
      match memRead p m (a + 1) n with
      | .ok bs => .ok (Memory.byteAt m a :: bs)
      | .error c => .error c
    else .error .srcMargin

/-- R54 `MemWrite(addr, n, b)`: byte `b[j]` at `addr + j`, or `DST_ACCESS` at a byte that is not writable. "No other byte changes." -/
def memWrite (p : Platform) : Memory → Nat → List Byte → Except Cause Memory
  | m, _, [] => .ok m
  | m, a, b :: bs =>
    if Platform.canWrite p a then memWrite p (Memory.store m a b) (a + 1) bs
    else .error .dstAccess

/-! ### Taking an abort (R178, R179) -/

/-- R178 `raise ContractViolation(cause)`: the operation ends in the aborted state. A NEXT state, since the block goes on
answering reads and waits for `Reset` (R40, log entry 1). -/
def raise (c : Cause) (s : State) : Answer := .next (State.aborted c s)

/-- `n` consecutive bytes from `a` on become free values, the first of them the `k`-th drawn. -/
def Memory.scramble : Memory → Nat → Nat → Nat → Memory
  | m, _, _, 0 => m
  | m, a, k, n + 1 => Memory.scramble (Memory.store m a (Config.freeByte k)) (a + 1) (k + 1) n

/-- R179: "every byte of the command's write footprint (`DST .. DST + width - 1`) holds an *unspecified* value ... and no byte
outside that footprint has been changed" (log entry 6). -/
def State.outputUnspecified (width : Nat) (s : State) : State :=
  { s with mem := Memory.scramble s.mem s.dst.toNat s.freeNext width, freeNext := s.freeNext + width }

/-- R178, R179: an abort that arises in the middle of a filter command (causes 2 and 3). -/
def raiseMidCommand (c : Cause) (width : Nat) (s : State) : Answer := raise c (State.outputUnspecified width s)

/-- The command's effect on memory, put back in the state: a filter command writes memory and no register (R35). -/
def State.withMemory (m : Memory) (s : State) : State := { s with mem := m }

/-- The end of a filter command: its output is in memory, or the memory abort it met is taken. -/
def finish (width : Nat) (s : State) : Except Cause Memory → Answer
  | .ok m => .next (State.withMemory m s)
  | .error c => raiseMidCommand c width s

/-! ### `Reset` (R200, R38): the only way out of an abort (R182) -/

/-- R200: `STATUS` and `TAPSNUM` are 0; `TAP`, `W0`, `W1`, `SRC`, `DST` are unspecified, that is never written (R39; the zeros are
log entry 2); memory is not changed. The platform's parameters (R41) and the host's own state are no part of the block. -/
def State.blockReset (s : State) : State :=
  { s with
    src := State.reset.src
    dst := State.reset.dst
    tapsnum := State.reset.tapsnum
    taps := State.reset.taps
    w0 := State.reset.w0
    w1 := State.reset.w1
    wvalid := false
    abort := false
    cause := 0
    srcWritten := false
    dstWritten := false
    tapsWritten := Vector.replicate 12 false }

end Sys2Proof.Machine
end

