-- ==== Sys2Proof/Machine/Operands.lean ====
section
/-! DEFINITION. The operands of the host operations and of the commands: the numbered register file (R21, R22, R37, R90), the
implicit operands of a command (R73), its footprints (R58, R59) and the two duties a model refuses on (R51, R63), and the
registers it may not read unwritten (R39). -/

namespace Sys2Proof.Machine

/-! ### The register file -/

/-- R21: which register a number names; `none` for 5..15, 28..31, 64 and above. -/
def regOf (n : Nat) : Option Reg :=
  if n = 0 then some .cmd
  else if n = 1 then some .status
  else if n = 2 then some .src
  else if n = 3 then some .dst
  else if n = 4 then some .tapsnum
  else if h : 16 ≤ n ∧ n < 28 then some (.tap ⟨n - 16, by omega⟩)
  else if h : 32 ≤ n ∧ n < 48 then some (.w0 ⟨n - 32, by omega⟩)
  else if h : 48 ≤ n ∧ n < 64 then some (.w1 ⟨n - 48, by omega⟩)
  else none

/-- R21: the number of a register. -/
def regNumber : Reg → Nat
  | .cmd => 0
  | .status => 1
  | .src => 2
  | .dst => 3
  | .tapsnum => 4
  | .tap k => 16 + k
  | .w0 j => 32 + j
  | .w1 j => 48 + j

/-- R21: the width of a register in bits. -/
def regWidth (p : Platform) : Reg → Nat
  | .cmd | .status => 32
  | .src | .dst => p.aw
  | .tapsnum => 4
  | .tap _ => 16
  | .w0 _ | .w1 _ => 8

/-- R7: `XW = max(AW, 32)`, the data width of the register interface. -/
def Platform.xw (p : Platform) : Nat := max p.aw 32

/-- R39, R28: the register's value is unspecified: never written since `Reset` (`SRC`, `DST`, `TAP[k]`), or a window element while
`WVALID = 0`. -/
def unspecified (s : State) : Reg → Bool
  | .src => !s.srcWritten
  | .dst => !s.dstWritten
  | .tap k => !s.tapsWritten[k]
  | .w0 _ | .w1 _ => !s.wvalid
  | .cmd | .status | .tapsnum => false

/-- R22: `zext_N` of the register's `N`-bit pattern. `CMD` "holds no value between writes" (R31). -/
def regPattern (s : State) : Reg → HostValue
  | .cmd => 0
  | .status => (statusWord s).setWidth 64
  | .src => s.src
  | .dst => s.dst
  | .tapsnum => s.tapsnum.setWidth 64
  | .tap k => (s.taps[k]).setWidth 64
  | .w0 j => (s.w0[j]).setWidth 64
  | .w1 j => (s.w1[j]).setWidth 64

/-- R90: `SRC <- trunc_AW(v)`. -/
def State.writeSrc (v : HostValue) (s : State) : State := { s with src := truncTo s.platform.aw v, srcWritten := true }

/-- R90: `DST <- trunc_AW(v)`. -/
def State.writeDst (v : HostValue) (s : State) : State := { s with dst := truncTo s.platform.aw v, dstWritten := true }

/-- R90: `TAPSNUM <- trunc_4(v); STATUS.WVALID <- 0`. -/
def State.writeTapsnum (v : HostValue) (s : State) : State := State.windowsStale { s with tapsnum := v.setWidth 4 }

/-- R90: `TAP[k] <- sext_16(trunc_16(v)); STATUS.WVALID <- 0`. The register holds the 16-bit pattern. -/
def State.writeTap (k : Fin 12) (v : HostValue) (s : State) : State :=
  State.windowsStale { s with taps := s.taps.set k (v.setWidth 16), tapsWritten := s.tapsWritten.set k true }

/-! ### The implicit operands of a command (R73) -/

/-- R175: the tap counts there are, 10 and 12. -/
def legalTapsnum (n : BitVec 4) : Bool := n == 10 || n == 12

/-- R13 `delta`: 1 if `TAPSNUM = 10`, else 0. -/
def delta (n : BitVec 4) : Nat := if n = 10 then 1 else 0

/-- The coefficients `TAP[0..TAPSNUM-1]` as signed integers. -/
def State.activeTaps (s : State) : List Int := (s.taps.toList.take s.tapsnum.toNat).map BitVec.toInt

/-- R74, R141: the dispatch "keyed by width", giving how often the tile is doubled: `width = 4 * 2^level`; every other key is
unsupported. -/
def blockLevel (width : Nat) : Option Nat :=
  if width = 4 then some 0
  else if width = 8 then some 1
  else if width = 16 then some 2
  else if width = 32 then some 3
  else if width = 64 then some 4
  else none

/-! ### Footprints (R58, R59) -/

/-- R58: the `w + n - 1` addresses from `SRC` on when `w >= 1`, none when `w = 0`. -/
def firsReads (width : Nat) (s : State) : Span :=
  ⟨s.src.toNat, if width = 0 then 0 else width + s.tapsnum.toNat - 1⟩

/-- R59: the `w + 13` addresses from `SRC - delta` on, over the integers. -/
def firvReads (width : Nat) (s : State) : Span :=
  ⟨(s.src.toNat : Int) - delta s.tapsnum, width + 13⟩

/-- R58, R59: the `w` addresses `DST .. DST + w - 1`. -/
def writes (width : Nat) (s : State) : Span := ⟨s.dst.toNat, width⟩

/-- R51: no address of the footprint is below 0 or above `2^AW - 1`. -/
def Span.inSpace (aw : Nat) (f : Span) : Bool := f.len == 0 || (0 ≤ f.base && f.base + f.len ≤ 2 ^ aw)

/-- R63: two footprints share an address. -/
def Span.meets (f g : Span) : Bool :=
  f.len != 0 && g.len != 0 && f.base < g.base + g.len && g.base < f.base + f.len

/-! ### What a model refuses (R39, R51, R63; R190) -/

/-- The least `k < n` for which `TAP[k]` has not been written. -/
def firstUnwrittenTap (n : Nat) (s : State) : Option Nat := (s.tapsWritten.toList.take n).findIdx? (fun w => !w)

/-- R39: the register number of the first address register never written since `Reset`. -/
def unwrittenAddress (s : State) : Option Nat :=
  if !s.srcWritten then some (regNumber .src)
  else if !s.dstWritten then some (regNumber .dst)
  else none

/-- R51, R63: the footprints of a command that a model gives no meaning. -/
def footprintRefusal (p : Platform) (reads output : Span) : Option Refusal :=
  if !(Span.inSpace p.aw reads && Span.inSpace p.aw output) then some .footprintWraps
  else if Span.meets reads output then some .footprintsIntersect
  else none

/-- What `FIRS` is refused for. With `width = 0` it reads no register but `TAPSNUM` and has empty footprints (R105, log entry 15). -/
def firsRefusal (width : Nat) (s : State) : Option Refusal :=
  if width = 0 then none
  else match unwrittenAddress s with
    | some n => some (.registerNeverWritten n)
    | none => match firstUnwrittenTap s.tapsnum.toNat s with
      | some k => some (.registerNeverWritten (16 + k))
      | none => footprintRefusal s.platform (firsReads width s) (writes width s)

/-- What `FIRV` is refused for. It reads no `TAP[k]` (R73). -/
def firvRefusal (width : Nat) (s : State) : Option Refusal :=
  match unwrittenAddress s with
  | some n => some (.registerNeverWritten n)
  | none => footprintRefusal s.platform (firvReads width s) (writes width s)

end Sys2Proof.Machine
end

