-- ==== Sys2Proof/Machine/Pack.lean ====
section
/-! DEFINITION. `PACK`: building the packed coefficient windows (spec/40_config_and_packing.md R91 to R96). -/

namespace Sys2Proof.Machine

/-- R29, R93: a tap fits a signed 8-bit window element. -/
def tapFits (t : Tap) : Bool := -128 ≤ t.toInt && t.toInt ≤ 127

/-- R92's check loop, for the taps from `k` on in ascending order: what stops `PACK` first, a tap outside -128..127
(`TAP_RANGE`, R93) or a tap never written since `Reset` (refused, R39); each tap is given with whether it has been
written. -/
def packScan : Nat → List (Bool × Tap) → Option (Sum Cause Refusal)
  | _, [] => none
  | k, (written, t) :: rest =>
    if !written then some (.inr (.registerNeverWritten (16 + k)))
    else if !tapFits t then some (.inl .tapRange)
    else packScan (k + 1) rest

/-- The taps `PACK` reads, `TAP[0..TAPSNUM-1]`, each with whether it has been written. -/
def packOperands (s : State) : List (Bool × Tap) := (s.tapsWritten.toList.zip s.taps.toList).take s.tapsnum.toNat

/-- R92, R94: position `j` of a window whose tap 0 stands at position `offset`: tap `j - offset` for `offset <= j < offset + n`, else
zero. -/
def windowElem (offset n : Nat) (taps : Vector Tap 12) (j : Nat) : Elem :=
  if offset ≤ j ∧ j < offset + n then (taps[j - offset]?.getD 0).setWidth 8 else 0

/-- R92, R94: the sixteen positions. -/
def window (offset n : Nat) (taps : Vector Tap 12) : Vector Elem 16 :=
  ⟨⟨(List.range Config.winLen).map (windowElem offset n taps)⟩, rfl⟩

/-- R92: `W0[k + delta] <- TAP[k]`. -/
def window0 (n : BitVec 4) (taps : Vector Tap 12) : Vector Elem 16 := window (delta n) n.toNat taps

/-- R92: `W1[k + delta + 2] <- TAP[k]`. -/
def window1 (n : BitVec 4) (taps : Vector Tap 12) : Vector Elem 16 := window (delta n + Config.winShift) n.toNat taps

/-- R92: the state after a successful `PACK`. -/
def State.packed (s : State) : State :=
  { s with w0 := window0 s.tapsnum s.taps, w1 := window1 s.tapsnum s.taps, wvalid := true }

/-- R92 `PACK`. "Both checks are made before any `W` register is written." -/
def execPack (s : State) : Answer :=
  if !legalTapsnum s.tapsnum then raise .badTapsnum s
  else match packScan 0 (packOperands s) with
    | some (.inl c) => raise c s
    | some (.inr r) => .refused r
    | none => .next (State.packed s)

end Sys2Proof.Machine
end

