-- ==== Sys2Proof/Machine/Scalar.lean ====
section
/-! DEFINITION. `FIRS`: the scalar filter (spec/41_scalar_filter.md R100 to R105). -/

namespace Sys2Proof.Machine

/-- R101's inner loop: the exact sum of `MemRead(a + k, 1)[0] * TAP[k]` over the taps (R102: "no wrap-around, no saturation, no
intermediate rounding"), or the abort of the first byte that is not readable. -/
def dotProduct (p : Platform) (m : Memory) : List Int → Nat → Except Cause Int
  | [], _ => .ok 0
  | t :: ts, a =>
    match memRead p m a 1 with
    | .error c => .error c
    | .ok bytes =>
      match dotProduct p m ts (a + 1) with
      | .error c => .error c
      | .ok rest => .ok (((bytes.headD 0).toNat : Int) * t + rest)

/-- R101: `r <- (sum + 64) >>a 7`; `o <- clamp(r, 0, 255)`. -/
def outputPixel (sum : Int) : Byte :=
  byteOf (clamp (roundPowerOfTwo sum Config.scaleBits) Config.pixelMin Config.pixelMax)

/-- R101's outer loop, ascending: `count` pixels from source address `s` to destination address `d`, "each output byte is written
after the reads it depends on". -/
def filterRow (p : Platform) (taps : List Int) : (count : Nat) → (s d : Nat) → Memory → Except Cause Memory
  | 0, _, _, m => .ok m
  | count + 1, s, d, m =>
    match dotProduct p m taps s with
    | .error c => .error c
    | .ok sum =>
      match memWrite p m d [outputPixel sum] with
      | .error c => .error c
      | .ok m' => filterRow p taps count (s + 1) (d + 1) m'

/-- R101 `FIRS`: `BAD_TAPSNUM` "before any memory access", then the refusals of R190, then the loop. -/
def execFirs (width : Nat) (s : State) : Answer :=
  if !legalTapsnum s.tapsnum then raise .badTapsnum s
  else match firsRefusal width s with
    | some r => .refused r
    | none => finish width s (filterRow s.platform (State.activeTaps s) width s.src.toNat s.dst.toNat s.mem)

end Sys2Proof.Machine
end

