-- ==== Sys2Proof/Machine/Lanes.lean ====
section
/-! DEFINITION. The lane primitives of the vector filter and the reduction of a tile (spec/42_vector_filter_base.md R111 to R123).
A lane of a word vector is a signed 16-bit value, kept as an integer narrowed at the points the rules name (R8, R11). -/

namespace Sys2Proof.Machine

/-- R114, one lane: `sat16(p0 * c0 + p1 * c1)`, pixels unsigned, window elements signed. -/
def maddPair (p0 p1 : Byte) (c0 c1 : Elem) : Int := sat16 ((p0.toNat : Int) * c0.toInt + (p1.toNat : Int) * c1.toInt)

/-- R114 `MADD(P, W)`: the sixteen products saturated in adjacent pairs. -/
def madd : List Byte → List Elem → List Int
  | p0 :: p1 :: ps, c0 :: c1 :: cs => maddPair p0 p1 c0 c1 :: madd ps cs
  | _, _ => []

/-- R115 `LANESHIFT(V)`: one lane toward lane 0; lane 0 is discarded and a zero enters at the top. -/
def laneShift : List Int → List Int
  | [] => []
  | _ :: lanes => lanes ++ [0]

/-- R119 `ADDS(a, b)`: saturating addition. -/
def adds (a b : Int) : Int := sat16 (a + b)

/-- R119 `MIN(a, b)`: signed comparison. -/
def minLane (a b : Int) : Int := if a ≤ b then a else b

/-- R119 `MAX(a, b)`: signed comparison. -/
def maxLane (a b : Int) : Int := if a ≥ b then a else b

/-- R120 `ROUNDHI(a, b) = (a * b + 16384) >>a 15`. -/
def roundHi (a b : Int) : Int := shiftRightArith (a * b + 16384) 15

/-- R121 `PACKUS(q) = satu8(q)`, as the byte that is stored. -/
def packUs (q : Int) : Byte := byteOf (satu8 q)

/-- R113: the four vectors of partial sums `R[0..3]`, one for each output pixel of the tile. -/
def partialSums (p0 p1 : List Byte) (w0 w1 : List Elem) : List (List Int) :=
  [madd p0 w0, madd p1 w0, laneShift (madd p0 w1), laneShift (madd p1 w1)]

/-- R116: column `m`, whose lane `n` is partial sum `m` of output pixel `n`; columns 6 and 7 "may be ignored". -/
def column (rows : List (List Int)) (m : Nat) : List Int := rows.map (fun r => r.getD m 0)

/-- R116: the eight columns. -/
def transpose (rows : List (List Int)) : List (List Int) := (List.range 8).map (column rows)

/-- R118: six partial sums to one, in the order `((s01 + s45) + mn) + mx` (log entry 13). -/
def reduceSix (c0 c1 c2 c3 c4 c5 : Int) : Int :=
  adds (adds (adds (adds c0 c1) (adds c4 c5)) (minLane c2 c3)) (maxLane c2 c3)

/-- R118: the final sum `T[n]` of output pixel `n`, from columns 0 to 5. -/
def reduceColumns (cols : List (List Int)) (n : Nat) : Int :=
  let lane := fun m => (cols.getD m []).getD n 0
  reduceSix (lane 0) (lane 1) (lane 2) (lane 3) (lane 4) (lane 5)

/-- R120, R121: rounding and narrowing of one sum. -/
def roundAndNarrow (t : Int) : Byte := packUs (roundHi t 256)

/-- R112 to R121 between the loads and the store: the four output pixels of a tile. -/
def tilePixels (p0 p1 : List Byte) (w0 w1 : List Elem) : List Byte :=
  (List.range Config.tile).map
    (fun n => roundAndNarrow (reduceColumns (transpose (partialSums p0 p1 w0 w1)) n))

end Sys2Proof.Machine
end

