-- ==== Sys2Proof/Machine/VectorFilter.lean ====
section
/-! DEFINITION. `FIRV`: the tile (spec/42_vector_filter_base.md R110, R122) and its tiling (spec/43_vector_tiling.md R140 to R146). -/

namespace Sys2Proof.Machine

/-- What a tile reads beside memory: the platform, `delta` (R111), `W0` and `W1` (R110). -/
structure TileContext where
  platform : Platform
  delta : Nat
  w0 : List Elem
  w1 : List Elem
  deriving DecidableEq, Repr

/-- The tile's registers in a state. -/
def tileContext (s : State) : TileContext :=
  { platform := s.platform, delta := delta s.tapsnum, w0 := s.w0.toList, w1 := s.w1.toList }

/-- R122 `Tile(s, d)`: both loads before the store. `a = s - delta` is not below 0, since `FIRV` refuses a footprint that would
be (R51). -/
def tile (ctx : TileContext) (s d : Nat) (m : Memory) : Except Cause Memory :=
  match memRead ctx.platform m (s - ctx.delta) Config.loadBytes with
  | .error c => .error c
  | .ok p0 =>
    match memRead ctx.platform m (s - ctx.delta + 1) Config.loadBytes with
    | .error c => .error c
    | .ok p1 => memWrite ctx.platform m d (tilePixels p0 p1 ctx.w0 ctx.w1)

/-- R141 `Block(s, d, 4 * 2^level)`: the left half, then the right half with both addresses advanced by its width. -/
def block (ctx : TileContext) : (level : Nat) → (s d : Nat) → Memory → Except Cause Memory
  | 0, s, d, m => tile ctx s d m
  | level + 1, s, d, m =>
    match block ctx level s d m with
    | .error c => .error c
    | .ok m' => block ctx level (s + Config.tile * 2 ^ level) (d + Config.tile * 2 ^ level) m'

/-- R142's unrolled form: `count` tiles in ascending address order. -/
def tiles (ctx : TileContext) : (count : Nat) → (s d : Nat) → Memory → Except Cause Memory
  | 0, _, _, m => .ok m
  | count + 1, s, d, m =>
    match tile ctx s d m with
    | .error c => .error c
    | .ok m' => tiles ctx count (s + Config.tile) (d + Config.tile) m'

/-- R141 `FIRV`, its exceptions in the order of R145: unsupported width, then stale windows, "both checks are made before any
memory access"; then the refusals of R190; then the tiles. -/
def execFirv (width : Nat) (s : State) : Answer :=
  match blockLevel width with
  | none => raise .unsupportedWidth s
  | some level =>
    if !s.wvalid then raise .windowsInvalid s
    else match firvRefusal width s with
      | some r => .refused r
      | none => finish width s (block (tileContext s) level s.src.toNat s.dst.toNat s.mem)

end Sys2Proof.Machine
end

