-- ==== Sys2Proof/Machine/Dispatch.lean ====
section
/-! DEFINITION. What a command does to the state: one arm per command (R72). -/

namespace Sys2Proof.Machine

def exec (i : Instr) (s : State) : Host.Outcome State Fault Refusal :=
  match i with
  | .pack => Sys2Proof.Machine.execPack s
  | .firs width => Sys2Proof.Machine.execFirs width s
  | .firv width => Sys2Proof.Machine.execFirv width s

end Sys2Proof.Machine
end

