-- ==== Sys2Proof/Machine/HostOps.lean ====
section
/-! DEFINITION. The host's operations (R22, R31, R37, R40, R90, R200) and its direct accesses to memory (R50). Each is atomic
(R22): one step of the model. -/

namespace Sys2Proof.Machine

/-- A value returned to the host. -/
def State.returning (v : HostValue) (s : State) : State := { s with returned := s.returned ++ [v] }

/-- One free value has been drawn. -/
def State.drewFree (s : State) : State := { s with freeNext := s.freeNext + 1 }

/-- R31: `CsrWrite(0, v)` decodes `v` and executes the command to completion; an illegal word raises `ILLEGAL_CMD` and "has no
other effect" (R75, R177). -/
def issueCommand (v : HostValue) (s : State) : Answer :=
  match decode v with
  | .ok i => exec i s
  | .error _ => raise .illegalCmd s

/-- R22, R90, R37: the write of an `XW`-bit value to a register, with `ABORT = 0`. -/
def writeRegister (n : Nat) (v : HostValue) (s : State) : Answer :=
  match regOf n with
  | some .cmd => issueCommand v s
  | some .src => .next (State.writeSrc v s)
  | some .dst => .next (State.writeDst v s)
  | some .tapsnum => .next (State.writeTapsnum v s)
  | some (.tap k) => .next (State.writeTap k v s)
  | some .status => raise .illegalReg s
  | some (.w0 _) => raise .illegalReg s
  | some (.w1 _) => raise .illegalReg s
  | none => raise .illegalReg s

/-- R22 `CsrWrite(n, v)`: no effect at all while `ABORT = 1` (R40). The interface carries `XW` bits (log entry 9). -/
def csrWrite (n : Nat) (v : HostValue) (s : State) : Answer :=
  if s.abort then .next s else writeRegister n (truncTo (Platform.xw s.platform) v) s

/-- R22, R39, R28: a read of a readable register, with no side effect on it: its pattern, or "any value" of its width where its
value is unspecified (log entry 4). -/
def readRegister (r : Reg) (s : State) : State :=
  if unspecified s r then
    State.drewFree (State.returning (truncTo (regWidth s.platform r) (Config.freeValue s.freeNext)) s)
  else State.returning (regPattern s r) s

/-- R37, R40: a read of `CMD` or of a number with no register returns 0, and raises `ILLEGAL_REG` if `ABORT = 0`. -/
def readIllegal (s : State) : Answer :=
  if s.abort then .next (State.returning 0 s) else raise .illegalReg (State.returning 0 s)

/-- R22 `CsrRead(n)`; "reads are still answered when `STATUS.ABORT = 1`". -/
def csrRead (n : Nat) (s : State) : Answer :=
  match regOf n with
  | none => readIllegal s
  | some .cmd => readIllegal s
  | some r => .next (readRegister r s)

/-- R36: the addresses `a .. a + n - 1` are bytes of memory. -/
def inMemory (p : Platform) (a n : Nat) : Bool := a + n ≤ 2 ^ p.aw

/-- R50, R78: the host stores bytes directly to memory, byte `j` at `a + j`, whether or not the block is aborted. -/
def hostStore (a : Nat) (bytes : List Byte) (s : State) : Answer :=
  if inMemory s.platform a bytes.length then .next (State.withMemory (Memory.storeBytes s.mem a bytes) s)
  else .fault .hostAddressOutsideMemory

/-- R50, R163: the host reads `n` bytes directly from memory, lowest address first. -/
def hostLoad (a n : Nat) (s : State) : Answer :=
  if inMemory s.platform a n then
    .next { s with returned := s.returned ++ (Memory.bytesAt s.mem a n).map (fun b => b.setWidth 64) }
  else .fault .hostAddressOutsideMemory

/-- R22: what one operation of the host does. -/
def perform (op : HostOp) (s : State) : Answer :=
  match op with
  | .csrWrite n v => csrWrite n v s
  | .csrRead n => csrRead n s
  | .reset => .next (State.blockReset s)
  | .memStore a bytes => hostStore a bytes s
  | .memLoad a n => hostLoad a n s

/-- R24: the index "that the *host* agent advances by one after each operation". -/
def State.advance (s : State) : State := { s with index := s.index + 1 }

/-- The index moves on after an operation that completes. -/
def advanceHost : Answer → Answer
  | .next t => .next (State.advance t)
  | .fault f => .fault f
  | .refused r => .refused r

/-- R24: the host operation that comes next, if its program has one left. -/
def nextOp (s : State) : Option HostOp := s.program[s.index]?

/-- The host's next operation becomes this one: the operations already performed are dropped and it stands before those still
to come (log entry 10). -/
def State.withNextOp (op : HostOp) (s : State) : State := { s with program := op :: s.program.drop s.index, index := 0 }

end Sys2Proof.Machine
end

