-- ==== Sys2Proof/Machine/Step.lean ====
section
/-! DEFINITION. One step: the host performs its next operation, to completion (R22, R60), and its index moves on (R24). With no
operation left the block "is idle and keeps all its state; nothing needs to wake it" (R188). -/

namespace Sys2Proof.Machine

/-- One step of the machine (R14: "one total step function per host operation"). -/
def step (s : State) : Host.Outcome State Fault Refusal :=
  match nextOp s with
  | none => .next s
  | some op => advanceHost (perform op s)

/-- The state whose very next step runs the command with these bits: HFIR fetches nothing (R24, R66), so the command stands as the
host's next operation, a write to `CMD` (log entry 10). -/
def State.withFetchWord (s : State) (nbits w : Nat) : State :=
  State.withNextOp (.csrWrite 0 (BitVec.ofNat 64 (w % 2 ^ nbits))) s

end Sys2Proof.Machine
end

