-- ==== Sys2Proof/Machine/Exactness.lean ====
section
/-! DEFINITION. The conditions under which the vector datapath is exact (spec/42_vector_filter_base.md R124, R125, R127). They are
premises of claims: "`PackSafe` is not a register and the block does not evaluate it" (R127). -/

namespace Sys2Proof.Machine

/-- A signed 16-bit value. -/
abbrev fits16 (v : Int) : Prop := -32768 ≤ v ∧ v ≤ 32767

/-- R125, conditions 1 and 2, on the six partial sums of one output pixel taken without saturation. -/
abbrev ReductionExact (c0 c1 c2 c3 c4 c5 : Int) : Prop :=
  (fits16 c0 ∧ fits16 c1 ∧ fits16 c2 ∧ fits16 c3 ∧ fits16 c4 ∧ fits16 c5) ∧
  fits16 (c0 + c1) ∧ fits16 (c4 + c5) ∧ fits16 (c0 + c1 + c4 + c5) ∧ fits16 (c0 + c1 + c4 + c5 + minLane c2 c3)

/-- R124: partial sum `m` of output pixel `i`, without saturation: the pair `W0[2m]`, `W0[2m+1]` against the bytes they meet. -/
def exactPartial (s : State) (i m : Nat) : Int :=
  ((Memory.byteAt s.mem (s.src.toNat - delta s.tapsnum + i + 2 * m)).toNat : Int) * (s.w0[2 * m]?.getD 0).toInt +
  ((Memory.byteAt s.mem (s.src.toNat - delta s.tapsnum + i + 2 * m + 1)).toNat : Int) * (s.w0[2 * m + 1]?.getD 0).toInt

/-- R125 for every output pixel of a command: the exactness condition of one input. -/
abbrev InputExact (width : Nat) (s : State) : Prop :=
  ∀ i < width, ReductionExact (exactPartial s i 0) (exactPartial s i 1) (exactPartial s i 2) (exactPartial s i 3)
    (exactPartial s i 4) (exactPartial s i 5)

/-- R127 `Pp[m]`: the largest value of partial sum `m`. -/
def pairHigh (w0 : Vector Elem 16) (m : Nat) : Int :=
  255 * (maxLane (w0[2 * m]?.getD 0).toInt 0 + maxLane (w0[2 * m + 1]?.getD 0).toInt 0)

/-- R127 `Pn[m]`: the smallest value of partial sum `m`. -/
def pairLow (w0 : Vector Elem 16) (m : Nat) : Int :=
  255 * (minLane (w0[2 * m]?.getD 0).toInt 0 + minLane (w0[2 * m + 1]?.getD 0).toInt 0)

/-- R127: the bounds of `PackSafe` on a packed `W0`. -/
def windowSafe (w0 : Vector Elem 16) : Bool :=
  (List.range 6).all (fun m => pairHigh w0 m ≤ 32767 && -32768 ≤ pairLow w0 m) &&
  pairHigh w0 0 + pairHigh w0 1 + pairHigh w0 4 + pairHigh w0 5 + minLane (pairHigh w0 2) (pairHigh w0 3) ≤ 32767 &&
  -32768 ≤ pairLow w0 0 + pairLow w0 1 + pairLow w0 4 + pairLow w0 5 + minLane (pairLow w0 2) (pairLow w0 3)

/-- R127 `PackSafe`, a condition on `TAPSNUM` and the taps alone. -/
def packSafe (n : BitVec 4) (taps : Vector Tap 12) : Bool :=
  (taps.toList.take n.toNat).all tapFits && windowSafe (window0 n taps)

end Sys2Proof.Machine
end

