-- ==== Sys2Proof/Safety.lean ====
section
/-! DEFINITION. What a safe run is, in the terms the claims use: the invariant every step keeps, and the duties of the host under
which a command completes with its own effect (R163, R203, R211 to R215). -/

namespace Sys2Proof.Machine

/-- R30: what holds while `WVALID = 1`: "`TAPSNUM` is 10 or 12, every `TAP[k]`, `k < TAPSNUM`, is in -128..127, and `W0`, `W1` equal
the packing"; and those taps have been written, since `PACK` reads them (R39). -/
structure WindowsMatch (s : State) : Prop where
  count : s.tapsnum = 10 ∨ s.tapsnum = 12
  fit : ∀ k : Fin 12, k.val < s.tapsnum.toNat → tapFits s.taps[k] = true
  written : ∀ k : Fin 12, k.val < s.tapsnum.toNat → s.tapsWritten[k] = true
  first : s.w0 = window0 s.tapsnum s.taps
  second : s.w1 = window1 s.tapsnum s.taps

/-- The invariant: `AW` in its range (R7), memory canonical and inside the `2^AW` bytes (R36), `SRC` and `DST` `AW`-bit addresses
(R23), `CAUSE` 0 exactly while `ABORT = 0` and never a reserved code (R25, R171), valid windows matching the taps (R30). -/
structure State.Inv (s : State) : Prop where
  addressWidth : 8 ≤ s.platform.aw ∧ s.platform.aw ≤ 64
  memCanonical : Memory.wf s.mem
  memWithin : Memory.within s.platform.aw s.mem
  srcWithin : s.src.toNat < 2 ^ s.platform.aw
  dstWithin : s.dst.toNat < 2 ^ s.platform.aw
  causeWhileAborted : s.cause = 0 ↔ s.abort = false
  causeLegal : s.cause.toNat ≤ 8
  windows : s.wvalid = true → WindowsMatch s

/-- The conditions under which `PACK` succeeds: a legal tap count (R175), every tap it reads written (R39) and in -128..127 (R93). -/
structure PackReady (s : State) : Prop where
  count : s.tapsnum = 10 ∨ s.tapsnum = 12
  written : ∀ k : Fin 12, k.val < s.tapsnum.toNat → s.tapsWritten[k] = true
  fit : ∀ k : Fin 12, k.val < s.tapsnum.toNat → -128 ≤ s.taps[k].toInt ∧ s.taps[k].toInt ≤ 127

/-- `SRC`, `DST` have been written (R39). -/
structure AddressesWritten (s : State) : Prop where
  src : s.srcWritten = true
  dst : s.dstWritten = true

/-- The duties of R51 and R63 for the footprints `a .. a + len - 1` (reads) and `d .. d + width - 1` (writes): inside memory and
disjoint. -/
structure FootprintsPlaced (p : Platform) (a len d width : Nat) : Prop where
  readsInside : a + len ≤ 2 ^ p.aw
  writesInside : d + width ≤ 2 ^ p.aw
  disjoint : a + len ≤ d ∨ d + width ≤ a

/-- The duty of R56 for the same footprints: every byte lent for its use. -/
structure FootprintsLent (p : Platform) (a len d width : Nat) : Prop where
  readable : ∀ j < len, Platform.canRead p (a + j) = true
  writable : ∀ j < width, Platform.canWrite p (d + j) = true

/-- The conditions under which `FIRS` with a width of at least 1 reaches memory (R175, R39, R51, R63, R58). -/
structure FirsPosed (width : Nat) (s : State) : Prop where
  count : s.tapsnum = 10 ∨ s.tapsnum = 12
  addresses : AddressesWritten s
  written : ∀ k : Fin 12, k.val < s.tapsnum.toNat → s.tapsWritten[k] = true
  placed : FootprintsPlaced s.platform s.src.toNat (width + s.tapsnum.toNat - 1) s.dst.toNat width

/-- The conditions under which `FIRS` with a width of at least 1 filters (R211, R213, R214). -/
structure FirsReady (width : Nat) (s : State) : Prop extends FirsPosed width s where
  lent : FootprintsLent s.platform s.src.toNat (width + s.tapsnum.toNat - 1) s.dst.toNat width

/-- The conditions under which `FIRV` reaches memory (R141, R210, R39, R51, R63, R59). -/
structure FirvPosed (width : Nat) (s : State) : Prop where
  supported : width ∈ Config.widths
  valid : s.wvalid = true
  addresses : AddressesWritten s
  margin : delta s.tapsnum ≤ s.src.toNat
  placed : FootprintsPlaced s.platform (s.src.toNat - delta s.tapsnum) (width + 13) s.dst.toNat width

/-- The conditions under which `FIRV` filters (R213, R214). -/
structure FirvReady (width : Nat) (s : State) : Prop extends FirvPosed width s where
  lent : FootprintsLent s.platform (s.src.toNat - delta s.tapsnum) (width + 13) s.dst.toNat width

/-- R101's sum for output pixel `i`: `src[i+k] * TAP[k]` over `k < TAPSNUM`, on the memory before the command. -/
def scalarSum (s : State) (i : Nat) : Int :=
  ((List.range s.tapsnum.toNat).map
    (fun k => ((Memory.byteAt s.mem (s.src.toNat + i + k)).toNat : Int) * (s.taps[k]?.getD 0).toInt)).sum

/-- R101's output for a sum: `floor((sum + 64) / 128)` clamped to 0..255. -/
def roundedPixel (sum : Int) : Int := max 0 (min 255 ((sum + 64) / 128))

/-- R122's output pixel `n` of the tile at offset `4 q`, on the memory before the command. -/
def tilePixel (s : State) (q n : Nat) : Byte :=
  (tilePixels (Memory.bytesAt s.mem (s.src.toNat - delta s.tapsnum + 4 * q) 16)
    (Memory.bytesAt s.mem (s.src.toNat - delta s.tapsnum + 4 * q + 1) 16) s.w0.toList s.w1.toList).getD n 0

/-- An address outside the write footprint `DST .. DST + width - 1`. -/
abbrev OutsideOutput (width : Nat) (s : State) (a : Nat) : Prop := a < s.dst.toNat ∨ s.dst.toNat + width ≤ a

/-- R179: `t` is `s` after an abort with a memory cause in the middle of a filter command: `CAUSE`, `ABORT`, free values in the
whole write footprint, and nothing else changed. -/
structure AbortedMidCommand (c : Cause) (width : Nat) (s t : State) : Prop where
  state : t = { s with cause := causeCode c, abort := true, mem := t.mem, freeNext := s.freeNext + width }
  footprint : ∀ i < width, Memory.lookup t.mem (s.dst.toNat + i) = some (Config.freeByte (s.freeNext + i))
  outside : ∀ a, OutsideOutput width s a → Memory.lookup t.mem a = Memory.lookup s.mem a

end Sys2Proof.Machine
end

