-- ==== Sys2Proof/Certificates/Slice0/Obligations.lean ====
section
/-! DEFINITION. The statements about HFIR, from the numbered rules of spec/. A statement names the rule it formalises; where it
rests on a choice of the model it names the log entry. Values are written out in the spec's own terms (sums, floor divisions,
register numbers) rather than through the model's meanings wherever a rule gives them so. -/

open Sys2Proof Sys2Proof.Machine

/-! ### Command words (spec/30_encoding.md) -/

/-- Sections 1 and 2 of 30_encoding.md: no bit of a command word is dropped. -/
def Obligations.DecodeOfEncodeIsIdentity : Prop :=
  ∀ i : Instr, i.WellFormed → decode (commandValue (encode i)) = .ok i

/-- Sections 1, 2 and 4 of 30_encoding.md: a value is accepted only if it is the encoding of the command it is read as, so each
word has one meaning. -/
def Obligations.AcceptedWordIsTheEncoding : Prop :=
  ∀ (v : HostValue) (i : Instr), decode v = .ok i → i.WellFormed ∧ v = commandValue (encode i)

/-- R72's table: "No two rows match the same word. Every other 32-bit word is illegal", and the decoder reads the row's command
(for `PACK`, `FIRS`, `FIRV` the command whose row it is). -/
def Obligations.OpcodeTableRowsAreDisjointAndDecoded : Prop :=
  ∀ v : BitVec 32,
    (∀ r ∈ opcodeTable, ∀ r' ∈ opcodeTable, r.selects v = true → r'.selects v = true → r = r') ∧
    (∀ r ∈ opcodeTable, r.selects v = true → ∃ i, decode (commandValue v) = .ok i ∧ rowOf i = r) ∧
    ((∀ r ∈ opcodeTable, r.selects v = false) → ∃ e, decode (commandValue v) = .error e)

/-- R75. The value is one the register interface carries (`XW` bits); the fields are written as quotients and remainders. A legal word
runs the command it decodes to, which never records `ILLEGAL_CMD`. -/
def Obligations.IllegalCommandWordsAbort : Prop :=
  ∀ (s : State) (v : HostValue), s.abort = false → v.toNat < 2 ^ max s.platform.aw 32 →
    ((v.toNat % 256 = 0 ∨ 4 ≤ v.toNat % 256 ∨ v.toNat / 2 ^ 24 % 256 ≠ 0 ∨
        (v.toNat % 256 = 1 ∧ v.toNat / 2 ^ 8 % 65536 ≠ 0) ∨ v.toNat / 2 ^ 32 ≠ 0) →
      csrWrite 0 v s = .next { s with abort := true, cause := 4 }) ∧
    (¬ (v.toNat % 256 = 0 ∨ 4 ≤ v.toNat % 256 ∨ v.toNat / 2 ^ 24 % 256 ≠ 0 ∨
        (v.toNat % 256 = 1 ∧ v.toNat / 2 ^ 8 % 65536 ≠ 0) ∨ v.toNat / 2 ^ 32 ≠ 0) →
      ∃ i, decode v = .ok i ∧ csrWrite 0 v s = exec i s ∧
        ∀ t, exec i s = .next t → s.cause ≠ 4 → t.cause ≠ 4)

/-- R74: `FIRV` with any other width is no illegal encoding; it decodes and aborts with `UNSUPPORTED_WIDTH` (code 1), and the five
supported widths do not. -/
def Obligations.FirvAcceptsFiveWidthsOnly : Prop :=
  (∀ (s : State) (width : Nat), width < 65536 → width ∉ [4, 8, 16, 32, 64] →
    decode (commandValue (encode (.firv width))) = .ok (.firv width) ∧
    exec (.firv width) s = .next { s with abort := true, cause := 1 }) ∧
  (∀ (s t : State) (width : Nat), width ∈ [4, 8, 16, 32, 64] → s.abort = false → s.cause = 0 →
    exec (.firv width) s = .next t → t.cause ≠ 1)

/-- R72, R73, R80: words written out from the encoding decode to what they stand for. -/
def Obligations.WordsOfTheSpecDecode : Prop :=
  decode 0x00000001#64 = .ok .pack ∧ decode 0x00000402#64 = .ok (.firs 4) ∧ decode 0x00FFFF02#64 = .ok (.firs 65535) ∧
  decode 0x00000803#64 = .ok (.firv 8) ∧ decode 0x00004003#64 = .ok (.firv 64) ∧
  decode 0x00000C03#64 = .ok (.firv 12)

/-! ### The register file and the host operations (spec/10_state.md, spec/40_config_and_packing.md) -/

/-- R90, all four configuration writes, and no effect with `ABORT = 1`. The `Written` flags are the model's own (log entry 3). -/
def Obligations.ConfigurationWritesTruncate : Prop :=
  ∀ (s : State) (v : HostValue), s.platform.aw ≤ 64 → v.toNat < 2 ^ max s.platform.aw 32 →
    (s.abort = false →
      csrWrite 2 v s = .next { s with src := BitVec.ofNat 64 (v.toNat % 2 ^ s.platform.aw), srcWritten := true } ∧
      csrWrite 3 v s = .next { s with dst := BitVec.ofNat 64 (v.toNat % 2 ^ s.platform.aw), dstWritten := true } ∧
      csrWrite 4 v s = .next { s with tapsnum := BitVec.ofNat 4 (v.toNat % 16), wvalid := false } ∧
      ∀ k : Fin 12, csrWrite (16 + k) v s =
        .next { s with taps := s.taps.set k (BitVec.ofNat 16 (v.toNat % 65536)), wvalid := false,
                       tapsWritten := s.tapsWritten.set k true }) ∧
    (s.abort = true → ∀ n, n = 2 ∨ n = 3 ∨ n = 4 ∨ (16 ≤ n ∧ n ≤ 27) → csrWrite n v s = .next s)

/-- R37: which accesses are illegal, the abort they raise, and the 0 a read returns. -/
def Obligations.IllegalRegisterAccessAborts : Prop :=
  ∀ s : State, s.abort = false →
    (∀ (n : Nat) (v : HostValue),
      n = 1 ∨ (32 ≤ n ∧ n ≤ 63) ∨ (5 ≤ n ∧ n ≤ 15) ∨ (28 ≤ n ∧ n ≤ 31) ∨ 64 ≤ n →
      csrWrite n v s = .next { s with abort := true, cause := 8 }) ∧
    (∀ n : Nat, n = 0 ∨ (5 ≤ n ∧ n ≤ 15) ∨ (28 ≤ n ∧ n ≤ 31) ∨ 64 ≤ n →
      csrRead n s = .next { s with abort := true, cause := 8, returned := s.returned ++ [0] })

/-- R22, R25: what a read of each readable register returns, whether or not the block is aborted; nothing else changes. -/
def Obligations.ReadsReturnTheRegisterPattern : Prop :=
  ∀ s : State,
    (∃ v : HostValue, csrRead 1 s = .next { s with returned := s.returned ++ [v] } ∧
      v.toNat = s.abort.toNat + 2 * s.wvalid.toNat + 16 * s.cause.toNat) ∧
    (s.srcWritten = true → csrRead 2 s = .next { s with returned := s.returned ++ [s.src] }) ∧
    (s.dstWritten = true → csrRead 3 s = .next { s with returned := s.returned ++ [s.dst] }) ∧
    (∃ v : HostValue, csrRead 4 s = .next { s with returned := s.returned ++ [v] } ∧ v.toNat = s.tapsnum.toNat) ∧
    (∀ k : Fin 12, s.tapsWritten[k] = true →
      ∃ v : HostValue, csrRead (16 + k) s = .next { s with returned := s.returned ++ [v] } ∧
        (v.toNat : Int) = (s.taps[k]).toInt % 65536) ∧
    (s.wvalid = true → ∀ j : Fin 16,
      (∃ v : HostValue, csrRead (32 + j) s = .next { s with returned := s.returned ++ [v] } ∧
        (v.toNat : Int) = (s.w0[j]).toInt % 256) ∧
      (∃ v : HostValue, csrRead (48 + j) s = .next { s with returned := s.returned ++ [v] } ∧
        (v.toNat : Int) = (s.w1[j]).toInt % 256))

/-- R22 and D27: a read after a write returns `trunc_N` of what was written. -/
def Obligations.ReadAfterWriteReturnsTheTruncatedValue : Prop :=
  ∀ (s : State) (v : HostValue), s.abort = false → s.platform.aw ≤ 64 → v.toNat < 2 ^ max s.platform.aw 32 →
    ∀ (n bits : Nat), (n = 2 ∧ bits = s.platform.aw) ∨ (n = 3 ∧ bits = s.platform.aw) ∨ (n = 4 ∧ bits = 4) ∨
        (16 ≤ n ∧ n ≤ 27 ∧ bits = 16) →
      ∃ t u, csrWrite n v s = .next t ∧ csrRead n t = .next u ∧
        u = { t with returned := s.returned ++ [BitVec.ofNat 64 (v.toNat % 2 ^ bits)] }

/-- R40: the aborted block. Writes do nothing; a read of no readable register returns 0; a read of a readable one returns the
register's pattern as it stands, and changes nothing of the block; no operation but `Reset` leaves the condition. The clause on a
register with an unspecified value (some value cut to the register's width, and the counter of free values advanced, so that
two reads need not agree) is the model's choice, log entry 4: R40 says only "its frozen value" and R39 "any value". -/
def Obligations.AbortedBlockIgnoresWritesAndAnswersReads : Prop :=
  ∀ s : State, s.abort = true →
    (∀ (n : Nat) (v : HostValue), csrWrite n v s = .next s) ∧
    (∀ n : Nat, n = 0 ∨ (5 ≤ n ∧ n ≤ 15) ∨ (28 ≤ n ∧ n ≤ 31) ∨ 64 ≤ n →
      csrRead n s = .next { s with returned := s.returned ++ [0] }) ∧
    (∀ r : Reg, r ≠ .cmd → unspecified s r = false →
      csrRead (regNumber r) s = .next { s with returned := s.returned ++ [regPattern s r] }) ∧
    (∀ r : Reg, r ≠ .cmd → unspecified s r = true →
      ∃ v : HostValue, v.toNat < 2 ^ regWidth s.platform r ∧
        csrRead (regNumber r) s = .next { s with returned := s.returned ++ [v], freeNext := s.freeNext + 1 }) ∧
    (∀ (op : HostOp) (t : State), op ≠ .reset → perform op s = .next t → t.abort = true ∧ t.cause = s.cause)

/-- R200: the operation `Reset`, from any state, aborted or not, and the only way to clear `ABORT`. The value a register with an
unspecified value then holds is the model's (log entry 2): the statement says only that it counts as never written, and leaves
the value to `t`. -/
def Obligations.ResetOperationClearsTheBlock : Prop :=
  ∀ s : State,
    (∃ t, perform .reset s = .next t ∧
      t.abort = false ∧ t.wvalid = false ∧ t.cause = 0 ∧ statusWord t = 0 ∧ t.tapsnum = 0 ∧ t.mem = s.mem ∧
      unspecified t .src = true ∧ unspecified t .dst = true ∧ (∀ k : Fin 12, unspecified t (.tap k) = true) ∧
      (∀ j : Fin 16, unspecified t (.w0 j) = true ∧ unspecified t (.w1 j) = true) ∧
      t.platform = s.platform ∧ t.returned = s.returned ∧ t.program = s.program ∧ t.index = s.index) ∧
    (∀ (op : HostOp) (t : State), s.abort = true → perform op s = .next t → t.abort = false → op = .reset)

/-- R38, the values the table gives: `STATUS` reads 0, `TAPSNUM` is 0, every other register is unspecified; memory is not changed by
`Reset`, and what an unwritten byte holds is left open (the reset state lists no byte). -/
def Obligations.StateAfterReset : Prop :=
  (State.reset.abort = false ∧ State.reset.wvalid = false ∧ State.reset.cause = 0 ∧ statusWord State.reset = 0 ∧
    State.reset.tapsnum = 0) ∧
  (∀ k : Fin 12, unspecified State.reset (.tap k) = true) ∧
  (∀ j : Fin 16, unspecified State.reset (.w0 j) = true ∧ unspecified State.reset (.w1 j) = true) ∧
  unspecified State.reset .src = true ∧ unspecified State.reset .dst = true ∧
  State.reset.mem = [] ∧ ∀ s t : State, perform .reset s = .next t → t.mem = s.mem

/-- R50, R36, R62 for the host's own accesses to memory: a byte stored is the byte then read, no other byte changes, and an
address outside the `2^AW` bytes faults (log entry 12). -/
def Obligations.HostMemoryAccess : Prop :=
  ∀ (s : State) (a : Nat) (bytes : List Byte),
    (a + bytes.length ≤ 2 ^ s.platform.aw →
      ∃ t, hostStore a bytes s = .next t ∧ t = { s with mem := t.mem } ∧
        (∀ j, j < bytes.length → some (Memory.byteAt t.mem (a + j)) = bytes[j]?) ∧
        (∀ b, b < a ∨ a + bytes.length ≤ b → Memory.byteAt t.mem b = Memory.byteAt s.mem b) ∧
        hostLoad a bytes.length t =
          .next { t with returned := t.returned ++ bytes.map (fun b => b.setWidth 64) }) ∧
    (2 ^ s.platform.aw < a + bytes.length →
      hostStore a bytes s = .fault .hostAddressOutsideMemory ∧
      hostLoad a bytes.length s = .fault .hostAddressOutsideMemory)

/-! ### Memory accesses of the block (spec/20_memory.md) -/

/-- R53, for every length. -/
def Obligations.MemReadFollowsItsRule : Prop :=
  ∀ (p : Platform) (m : Memory) (a n : Nat),
    ((∃ j < n, Platform.canRead p (a + j) = false) → memRead p m a n = .error .srcMargin) ∧
    ((∀ j < n, Platform.canRead p (a + j) = true) →
      ∃ bs, memRead p m a n = .ok bs ∧ bs.length = n ∧ ∀ j, j < n → bs[j]? = some (Memory.byteAt m (a + j)))

/-- R54, for every length. -/
def Obligations.MemWriteFollowsItsRule : Prop :=
  ∀ (p : Platform) (m : Memory) (a : Nat) (bs : List Byte),
    ((∃ j < bs.length, Platform.canWrite p (a + j) = false) → memWrite p m a bs = .error .dstAccess) ∧
    ((∀ j < bs.length, Platform.canWrite p (a + j) = true) →
      ∃ m', memWrite p m a bs = .ok m' ∧
        (∀ j, j < bs.length → some (Memory.byteAt m' (a + j)) = bs[j]?) ∧
        ∀ b, b < a ∨ a + bs.length ≤ b → Memory.byteAt m' b = Memory.byteAt m b)

/-- R51: a footprint that leaves `0 .. 2^AW - 1` is refused, for `FIRS` (R58) and for `FIRV` (R59), `SRC - 1` below 0 included. -/
def Obligations.WrappingFootprintIsRefused : Prop :=
  (∀ (width : Nat) (s : State), 0 < width → (s.tapsnum = 10 ∨ s.tapsnum = 12) → AddressesWritten s →
    (∀ k : Fin 12, k.val < s.tapsnum.toNat → s.tapsWritten[k] = true) →
    (2 ^ s.platform.aw < s.src.toNat + (width + s.tapsnum.toNat - 1) ∨ 2 ^ s.platform.aw < s.dst.toNat + width) →
    exec (.firs width) s = .refused .footprintWraps) ∧
  (∀ (width : Nat) (s : State), width ∈ [4, 8, 16, 32, 64] → s.wvalid = true → AddressesWritten s →
    (s.src.toNat < delta s.tapsnum ∨ 2 ^ s.platform.aw + delta s.tapsnum < s.src.toNat + (width + 13) ∨
      2 ^ s.platform.aw < s.dst.toNat + width) →
    exec (.firv width) s = .refused .footprintWraps)

/-- R63: footprints that share an address are refused. -/
def Obligations.IntersectingFootprintsAreRefused : Prop :=
  (∀ (width : Nat) (s : State), 0 < width → (s.tapsnum = 10 ∨ s.tapsnum = 12) → AddressesWritten s →
    (∀ k : Fin 12, k.val < s.tapsnum.toNat → s.tapsWritten[k] = true) →
    s.src.toNat + (width + s.tapsnum.toNat - 1) ≤ 2 ^ s.platform.aw → s.dst.toNat + width ≤ 2 ^ s.platform.aw →
    (∃ a, (s.src.toNat ≤ a ∧ a < s.src.toNat + (width + s.tapsnum.toNat - 1)) ∧
      (s.dst.toNat ≤ a ∧ a < s.dst.toNat + width)) →
    exec (.firs width) s = .refused .footprintsIntersect) ∧
  (∀ (width : Nat) (s : State), width ∈ [4, 8, 16, 32, 64] → s.wvalid = true → AddressesWritten s →
    delta s.tapsnum ≤ s.src.toNat → s.src.toNat - delta s.tapsnum + (width + 13) ≤ 2 ^ s.platform.aw →
    s.dst.toNat + width ≤ 2 ^ s.platform.aw →
    (∃ a, (s.src.toNat - delta s.tapsnum ≤ a ∧ a < s.src.toNat - delta s.tapsnum + (width + 13)) ∧
      (s.dst.toNat ≤ a ∧ a < s.dst.toNat + width)) →
    exec (.firv width) s = .refused .footprintsIntersect)

/-- R39, with R38 and R28: a command that reads a register never written since `Reset` is refused, and a host read of one, or of a
window element while `WVALID = 0`, still completes, with some value no wider than the register. The written flags are the model's
(log entry 3, DEDUCED); that a host read draws a fresh free value and advances `freeNext` is the model's choice for "any value"
(log entry 4, DESIGN CHOICE). -/
def Obligations.NeverWrittenOperandIsRefused : Prop :=
  (∀ (width : Nat) (s : State), 0 < width → (s.tapsnum = 10 ∨ s.tapsnum = 12) →
    (s.srcWritten = false ∨ s.dstWritten = false ∨
      ∃ k : Fin 12, k.val < s.tapsnum.toNat ∧ s.tapsWritten[k] = false) →
    ∃ n, exec (.firs width) s = .refused (.registerNeverWritten n)) ∧
  (∀ (width : Nat) (s : State), width ∈ [4, 8, 16, 32, 64] → s.wvalid = true →
    (s.srcWritten = false ∨ s.dstWritten = false) →
    ∃ n, exec (.firv width) s = .refused (.registerNeverWritten n)) ∧
  (∀ (s : State) (k : Fin 12), (s.tapsnum = 10 ∨ s.tapsnum = 12) → k.val < s.tapsnum.toNat → s.tapsWritten[k] = false →
    (∀ k' : Fin 12, k' < k → s.tapsWritten[k'] = true ∧ -128 ≤ s.taps[k'].toInt ∧ s.taps[k'].toInt ≤ 127) →
    exec .pack s = .refused (.registerNeverWritten (16 + k))) ∧
  (∀ (s : State) (n bits : Nat), s.platform.aw ≤ 64 →
    ((n = 2 ∧ s.srcWritten = false ∧ bits = s.platform.aw) ∨ (n = 3 ∧ s.dstWritten = false ∧ bits = s.platform.aw) ∨
      (∃ k : Fin 12, n = 16 + k ∧ s.tapsWritten[k] = false ∧ bits = 16) ∨
      (32 ≤ n ∧ n ≤ 63 ∧ s.wvalid = false ∧ bits = 8)) →
    ∃ v : HostValue, v.toNat < 2 ^ bits ∧
      csrRead n s = .next { s with returned := s.returned ++ [v], freeNext := s.freeNext + 1 })

/-! ### PACK (spec/40_config_and_packing.md) -/

/-- R92, R93, R94: both aborts, in their order and with nothing else changed, and the windows of a successful `PACK`. That a tap out of
range aborts `PACK` although a later tap in use was never written (whichever comes first in the order of `k`) is the model's
reading of R92 beside R39, log entry 3 (DEDUCED). -/
def Obligations.PackFollowsItsPseudocode : Prop :=
  (∀ s : State, s.tapsnum ≠ 10 → s.tapsnum ≠ 12 → exec .pack s = .next { s with abort := true, cause := 5 }) ∧
  (∀ (s : State) (k : Fin 12), (s.tapsnum = 10 ∨ s.tapsnum = 12) → k.val < s.tapsnum.toNat →
    (∀ k' : Fin 12, k' ≤ k → s.tapsWritten[k'] = true) → (s.taps[k].toInt < -128 ∨ 127 < s.taps[k].toInt) →
    exec .pack s = .next { s with abort := true, cause := 7 }) ∧
  (∀ s : State, PackReady s →
    ∃ t, exec .pack s = .next t ∧ t = { s with w0 := t.w0, w1 := t.w1, wvalid := true } ∧
      (∀ j : Fin 16, (t.w0[j]).toInt =
        if h : delta s.tapsnum ≤ j.val ∧ j.val < delta s.tapsnum + s.tapsnum.toNat ∧ j.val - delta s.tapsnum < 12
        then (s.taps[j.val - delta s.tapsnum]'h.2.2).toInt else 0) ∧
      (t.w1[0]).toInt = 0 ∧ (t.w1[1]).toInt = 0 ∧
      ∀ j : Fin 14, (t.w1[j.val + 2]).toInt = (t.w0[j.val]).toInt)

/-! ### FIRS (spec/41_scalar_filter.md) -/

/-- R101: the tap count is tested before anything else; `width = 0` changes nothing (R105); otherwise each output byte is the
rounded and clamped dot product on the memory before the command, and nothing else changes; an access the platform does
not allow ends the command with the cause of the first such access in the loop's order, and what memory then holds is R179's, the
unspecified bytes being free values (log entry 6, DESIGN CHOICE). That `FIRS 0` completes in every state, `SRC`, `DST` and the
taps never written included, is the model's reading of R105 beside R39, log entry 15 (DEDUCED, unsafe). -/
def Obligations.FirsFollowsItsPseudocode : Prop :=
  (∀ (width : Nat) (s : State), s.tapsnum ≠ 10 → s.tapsnum ≠ 12 →
    exec (.firs width) s = .next { s with abort := true, cause := 5 }) ∧
  (∀ s : State, s.tapsnum = 10 ∨ s.tapsnum = 12 → exec (.firs 0) s = .next s) ∧
  (∀ (width : Nat) (s : State), 0 < width → FirsReady width s →
    ∃ t, exec (.firs width) s = .next t ∧ t = { s with mem := t.mem } ∧
      (∀ i, i < width → ((Memory.byteAt t.mem (s.dst.toNat + i)).toNat : Int) = roundedPixel (scalarSum s i)) ∧
      ∀ a, OutsideOutput width s a → Memory.byteAt t.mem a = Memory.byteAt s.mem a) ∧
  (∀ (width : Nat) (s : State) (i : Nat), 0 < width → FirsPosed width s → i < width →
    (∀ i', i' < i → Platform.canWrite s.platform (s.dst.toNat + i') = true ∧
      ∀ k, k < s.tapsnum.toNat → Platform.canRead s.platform (s.src.toNat + i' + k) = true) →
    ((∃ k, k < s.tapsnum.toNat ∧ Platform.canRead s.platform (s.src.toNat + i + k) = false) →
      ∃ t, exec (.firs width) s = .next t ∧ AbortedMidCommand .srcMargin width s t) ∧
    ((∀ k, k < s.tapsnum.toNat → Platform.canRead s.platform (s.src.toNat + i + k) = true) →
      Platform.canWrite s.platform (s.dst.toNat + i) = false →
      ∃ t, exec (.firs width) s = .next t ∧ AbortedMidCommand .dstAccess width s t))

/-- R102: what `FIRS` accumulates for one output pixel is the exact sum over the taps in use, wherever its bytes lie, and fits a signed
28-bit accumulator. -/
def Obligations.ScalarSumFitsItsAccumulator : Prop :=
  ∀ s : State, s.tapsnum = 10 ∨ s.tapsnum = 12 →
    (∀ (p : Platform) (m : Memory) (a : Nat) (sum : Int), dotProduct p m (State.activeTaps s) a = .ok sum →
      sum = ((List.range s.tapsnum.toNat).map
        (fun k => ((Memory.byteAt m (a + k)).toNat : Int) * (s.taps[k]?.getD 0).toInt)).sum ∧
      -100270080 ≤ sum ∧ sum ≤ 100270080) ∧
    (∀ i : Nat, -100270080 ≤ scalarSum s i ∧ scalarSum s i ≤ 100270080)

/-- R104: unity gain, at every output pixel. -/
def Obligations.FirsHasUnityGain : Prop :=
  ∀ (width : Nat) (s : State) (i : Nat) (v : Byte), 0 < width → FirsReady width s → i < width →
    ((List.range s.tapsnum.toNat).map (fun k => (s.taps[k]?.getD 0).toInt)).sum = 128 →
    (∀ k, k < s.tapsnum.toNat → Memory.byteAt s.mem (s.src.toNat + i + k) = v) →
    ∃ t, exec (.firs width) s = .next t ∧ Memory.byteAt t.mem (s.dst.toNat + i) = v

/-! ### The lane primitives and the tile (spec/42_vector_filter_base.md) -/

/-- R114: every lane of `MADD`, and the ranges of each product and of each pair sum before saturation. That a pair sum saturates is
the spec's decision D9, which the model adopts (log entry 13, DESIGN CHOICE). -/
def Obligations.MaddSaturatesAdjacentPairs : Prop :=
  ∀ (p : List Byte) (w : List Elem), p.length = 16 → w.length = 16 →
    ∀ product : Nat → Int, (∀ j, product j = ((p.getD j 0).toNat : Int) * (w.getD j 0).toInt) →
      (madd p w).length = 8 ∧
      (∀ j, j < 16 → -32640 ≤ product j ∧ product j ≤ 32385) ∧
      ∀ m, m < 8 →
        (madd p w)[m]? = some (max (-32768) (min 32767 (product (2 * m) + product (2 * m + 1)))) ∧
        -65280 ≤ product (2 * m) + product (2 * m + 1) ∧ product (2 * m) + product (2 * m + 1) ≤ 64770

/-- R115 on a word vector of eight lanes. -/
def Obligations.LaneShiftMovesOneLaneTowardZero : Prop :=
  ∀ v : List Int, v.length = 8 →
    (laneShift v).length = 8 ∧ (∀ m, m < 7 → (laneShift v)[m]? = v[m + 1]?) ∧ (laneShift v)[7]? = some 0

/-- R119: saturating addition is commutative, exact where the sum fits, and sticks at the limits; minimum and maximum keep the
sum. -/
def Obligations.SaturatingAddAndMinMax : Prop :=
  ∀ a b : Int,
    adds a b = max (-32768) (min 32767 (a + b)) ∧ adds a b = adds b a ∧
    minLane a b = min a b ∧ maxLane a b = max a b ∧ minLane a b + maxLane a b = a + b

/-- R120, R129: the rounding law, on the whole signed 16-bit range and on the source's interval, and the clamp. -/
def Obligations.RoundingLaw : Prop :=
  ∀ a : Int, -32768 ≤ a → a ≤ 32767 →
    roundHi a 256 = (a + 64) / 128 ∧ -256 ≤ roundHi a 256 ∧ roundHi a 256 ≤ 256 ∧
    ((packUs (roundHi a 256)).toNat : Int) = max 0 (min 255 ((a + 64) / 128))

/-- R122: the tile in one piece, pixel by pixel, on two loads and two windows of sixteen elements. `c n m` is partial sum `m` of output
pixel `n` (R113 to R116): pixels 0 and 1 from window0, pixels 2 and 3 from window1 one lane on. The order of the additions is
the spec's choice D10 (log entry 13). -/
def Obligations.TilePixelsFollowTheDatapath : Prop :=
  ∀ (p0 p1 : List Byte) (w0 w1 : List Elem), p0.length = 16 → p1.length = 16 → w0.length = 16 → w1.length = 16 →
    ∀ c : Nat → Nat → Int,
      (∀ n m, n < 4 → m < 6 → c n m =
        (let p := if n % 2 = 0 then p0 else p1
         let w := if n < 2 then w0 else w1
         let lane := if n < 2 then m else m + 1
         max (-32768) (min 32767
          (((p.getD (2 * lane) 0).toNat : Int) * (w.getD (2 * lane) 0).toInt +
           ((p.getD (2 * lane + 1) 0).toNat : Int) * (w.getD (2 * lane + 1) 0).toInt)))) →
      (tilePixels p0 p1 w0 w1).length = 4 ∧
      ∀ n, n < 4 →
        (((tilePixels p0 p1 w0 w1).getD n 0).toNat : Int) =
          max 0 (min 255 ((adds (adds (adds (adds (c n 0) (c n 1)) (adds (c n 4) (c n 5))) (min (c n 2) (c n 3)))
            (max (c n 2) (c n 3)) * 256 + 16384) / 32768))

/-- R124's last part: with valid windows lanes 6 and 7 of every `R[n]` are zero, whatever the pixels. -/
def Obligations.LastTwoColumnsAreZero : Prop :=
  ∀ (s : State) (p0 p1 : List Byte), WindowsMatch s → p0.length = 16 → p1.length = 16 →
    ∀ r ∈ partialSums p0 p1 s.w0.toList s.w1.toList, r.length = 8 ∧ r[6]? = some 0 ∧ r[7]? = some 0

/-- R125: exactness of the reduction of one output pixel from its six partial sums. -/
def Obligations.ReductionIsExactUnderItsCondition : Prop :=
  ∀ c0 c1 c2 c3 c4 c5 : Int, ReductionExact c0 c1 c2 c3 c4 c5 →
    ((roundAndNarrow (reduceSix (sat16 c0) (sat16 c1) (sat16 c2) (sat16 c3) (sat16 c4) (sat16 c5))).toNat : Int) =
      roundedPixel (c0 + c1 + c2 + c3 + c4 + c5)

/-! ### FIRV (spec/43_vector_tiling.md) -/

/-- R141, R145, R142: both static aborts in their order; on success the output bytes are those of the tiles on the memory before
the command, and nothing else changes; an access the platform does not allow ends the command with the cause of the first
such access in the order of the tiles (R145, item 4), the unspecified bytes of R179 being free values (log entry 6, DESIGN
CHOICE). The output clause holds for inputs outside R125's condition too, and there rests on the spec's decisions D9 and D10, which
the model adopts (log entry 13, DESIGN CHOICE, unsafe). -/
def Obligations.FirvFollowsItsPseudocode : Prop :=
  (∀ (width : Nat) (s : State), width ∉ [4, 8, 16, 32, 64] →
    exec (.firv width) s = .next { s with abort := true, cause := 1 }) ∧
  (∀ (width : Nat) (s : State), width ∈ [4, 8, 16, 32, 64] → s.wvalid = false →
    exec (.firv width) s = .next { s with abort := true, cause := 6 }) ∧
  (∀ (width : Nat) (s : State), FirvReady width s →
    ∃ t, exec (.firv width) s = .next t ∧ t = { s with mem := t.mem } ∧
      (∀ q n, 4 * q < width → n < 4 → Memory.byteAt t.mem (s.dst.toNat + 4 * q + n) = tilePixel s q n) ∧
      ∀ a, OutsideOutput width s a → Memory.byteAt t.mem a = Memory.byteAt s.mem a) ∧
  (∀ (width : Nat) (s : State) (q : Nat), FirvPosed width s → 4 * q < width →
    (∀ q', q' < q → (∀ n, n < 4 → Platform.canWrite s.platform (s.dst.toNat + 4 * q' + n) = true) ∧
      ∀ j, j < 17 → Platform.canRead s.platform (s.src.toNat - delta s.tapsnum + 4 * q' + j) = true) →
    ((∃ j, j < 17 ∧ Platform.canRead s.platform (s.src.toNat - delta s.tapsnum + 4 * q + j) = false) →
      ∃ t, exec (.firv width) s = .next t ∧ AbortedMidCommand .srcMargin width s t) ∧
    ((∀ j, j < 17 → Platform.canRead s.platform (s.src.toNat - delta s.tapsnum + 4 * q + j) = true) →
      (∃ n, n < 4 ∧ Platform.canWrite s.platform (s.dst.toNat + 4 * q + n) = false) →
      ∃ t, exec (.firv width) s = .next t ∧ AbortedMidCommand .dstAccess width s t))

/-- R142: the doubling recursion is the run of tiles in ascending order. -/
def Obligations.BlockIsItsUnrolledForm : Prop :=
  ∀ (ctx : TileContext) (level s d : Nat) (m : Memory), block ctx level s d m = tiles ctx (2 ^ level) s d m

/-- R143: the composition law, with the host's two writes between the halves. -/
def Obligations.CompositionLaw : Prop :=
  ∀ (w : Nat) (s : State), w ∈ [4, 8, 16, 32] → State.Inv s → s.abort = false → FirvReady (2 * w) s →
    ∃ t t1 t2 t3 t4,
      exec (.firv (2 * w)) s = .next t ∧
      exec (.firv w) s = .next t1 ∧
      csrWrite 2 (s.src + BitVec.ofNat 64 w) t1 = .next t2 ∧
      csrWrite 3 (s.dst + BitVec.ofNat 64 w) t2 = .next t3 ∧
      exec (.firv w) t3 = .next t4 ∧
      t4 = { t with src := s.src + BitVec.ofNat 64 w, dst := s.dst + BitVec.ofNat 64 w } ∧ t.abort = false

/-- R124, R59: the bytes the vector filter reads outside the scalar footprint do not affect its output. -/
def Obligations.ExtraSourceBytesDoNotMatter : Prop :=
  ∀ (width : Nat) (s : State) (m : Memory), State.Inv s → FirvReady width s →
    (∀ j, j < width + s.tapsnum.toNat - 1 →
      Memory.byteAt m (s.src.toNat + j) = Memory.byteAt s.mem (s.src.toNat + j)) →
    ∃ t t', exec (.firv width) s = .next t ∧ exec (.firv width) { s with mem := m } = .next t' ∧
      ∀ i, i < width → Memory.byteAt t'.mem (s.dst.toNat + i) = Memory.byteAt t.mem (s.dst.toNat + i)

/-- R127: `PackSafe` gives the exactness condition of R125 on every pixel input. -/
def Obligations.PackSafeMakesEveryInputExact : Prop :=
  ∀ (width : Nat) (s : State) (m : Memory), WindowsMatch s → packSafe s.tapsnum s.taps = true →
    InputExact width { s with mem := m }

/-- R126, the contract: for every input that meets the exactness condition of R125, and for every input at all when the tap set
satisfies `PackSafe`, the two filters answer the same state, whose output bytes are the scalar filter's. -/
def Obligations.FirvMeetsItsContract : Prop :=
  ∀ (width : Nat) (s : State), State.Inv s → FirvReady width s →
    (InputExact width s ∨ packSafe s.tapsnum s.taps = true) →
    ∃ t, exec (.firv width) s = .next t ∧ exec (.firs width) s = .next t ∧ t = { s with mem := t.mem } ∧
      ∀ i, i < width → ((Memory.byteAt t.mem (s.dst.toNat + i)).toNat : Int) = roundedPixel (scalarSum s i)

/-! ### Aborts (spec/60_exceptions.md) -/

/-- R175: `BAD_TAPSNUM` (code 5) is raised by `PACK` and `FIRS` before anything else, and never by `FIRV`. -/
def Obligations.BadTapsnumIsRaisedByPackAndFirsOnly : Prop :=
  (∀ (width : Nat) (s : State), s.tapsnum ≠ 10 → s.tapsnum ≠ 12 →
    exec .pack s = .next { s with abort := true, cause := 5 } ∧
    exec (.firs width) s = .next { s with abort := true, cause := 5 }) ∧
  (∀ (width : Nat) (s t : State), exec (.firv width) s = .next t → t.cause = 5 → s.cause = 5)

/-- R172: `UNSUPPORTED_WIDTH` (code 1) is raised by `FIRV` only, before the `WVALID` test and before any memory access. -/
def Obligations.UnsupportedWidthIsRaisedByFirvOnly : Prop :=
  (∀ (width : Nat) (s : State), width ∉ [4, 8, 16, 32, 64] →
    exec (.firv width) s = .next { s with abort := true, cause := 1 }) ∧
  (∀ (i : Instr) (s t : State), exec i s = .next t → t.cause = 1 → s.cause ≠ 1 →
    ∃ width, i = .firv width ∧ width ∉ [4, 8, 16, 32, 64])

/-- R176: `WINDOWS_INVALID` (code 6). -/
def Obligations.WindowsInvalidAborts : Prop :=
  (∀ (width : Nat) (s : State), width ∈ [4, 8, 16, 32, 64] → s.wvalid = false →
    exec (.firv width) s = .next { s with abort := true, cause := 6 }) ∧
  (∀ (i : Instr) (s t : State), exec i s = .next t → t.cause = 6 → s.cause ≠ 6 →
    ∃ width, i = .firv width ∧ width ∈ [4, 8, 16, 32, 64] ∧ s.wvalid = false)

/-- R179: every abort is precise, but for causes 2 and 3: those arise in a filter command and leave its write footprint unspecified
and nothing outside it changed. That each unspecified byte is `Config.freeByte` at the next count, and `freeNext` advances by the
width, is the model's choice (log entry 6, DESIGN CHOICE). `answer` is what a read returns to the host, which is no state of
the block. -/
def Obligations.AbortsArePrecise : Prop :=
  ∀ (op : HostOp) (s t : State), s.abort = false → perform op s = .next t → t.abort = true →
    (∃ (c : Cause) (answer : List HostValue), c ≠ .srcMargin ∧ c ≠ .dstAccess ∧
      t = { s with abort := true, cause := causeCode c, returned := s.returned ++ answer }) ∨
    (∃ (c : Cause) (width : Nat) (v : HostValue), (c = .srcMargin ∨ c = .dstAccess) ∧ op = .csrWrite 0 v ∧
      (decode (truncTo (Platform.xw s.platform) v) = .ok (.firs width) ∨
       decode (truncTo (Platform.xw s.platform) v) = .ok (.firv width)) ∧
      AbortedMidCommand c width s t)

/-- R182, R40: an abort ends by `Reset` alone, `CAUSE` keeps naming the first violation, and until then the block's registers and
the bytes of memory the host does not store to stay as they are. -/
def Obligations.OnlyResetLeavesAnAbort : Prop :=
  ∀ s t : State, s.abort = true → step s = .next t → nextOp s ≠ some .reset →
    t.abort = true ∧ t.cause = s.cause ∧ t.src = s.src ∧ t.dst = s.dst ∧ t.tapsnum = s.tapsnum ∧ t.taps = s.taps ∧
    t.w0 = s.w0 ∧ t.w1 = s.w1 ∧ t.wvalid = s.wvalid ∧ t.srcWritten = s.srcWritten ∧ t.dstWritten = s.dstWritten ∧
    t.tapsWritten = s.tapsWritten ∧ ((∀ a bytes, nextOp s ≠ some (.memStore a bytes)) → t.mem = s.mem)

/-! ### The whole machine -/

/-- R23, R35, and the frame of every command: no command writes `SRC`, `DST`, `TAPSNUM`, a `TAP[k]`, the platform or the host's state;
the filters write no register but `STATUS` on an abort and no byte outside `DST .. DST + width - 1`; `PACK` writes no memory, and when
it succeeds it changes the windows and `WVALID` alone, when it aborts `STATUS` alone. -/
def Obligations.CommandsKeepTheirFrame : Prop :=
  ∀ (i : Instr) (s t : State), exec i s = .next t →
    (t.src = s.src ∧ t.dst = s.dst ∧ t.tapsnum = s.tapsnum ∧ t.taps = s.taps ∧ t.srcWritten = s.srcWritten ∧
      t.dstWritten = s.dstWritten ∧ t.tapsWritten = s.tapsWritten ∧ t.platform = s.platform ∧ t.program = s.program ∧
      t.index = s.index ∧ t.returned = s.returned) ∧
    ((t.abort = s.abort ∧ t.cause = s.cause) ∨ (t.abort = true ∧ ∃ c : Cause, t.cause = causeCode c)) ∧
    (i = .pack → t.mem = s.mem ∧ t.freeNext = s.freeNext ∧
      ((PackReady s ∧ t = { s with w0 := t.w0, w1 := t.w1, wvalid := true }) ∨
       (¬ PackReady s ∧ ∃ c : Cause, t = { s with abort := true, cause := causeCode c }))) ∧
    (∀ width, i = .firs width ∨ i = .firv width →
      t.w0 = s.w0 ∧ t.w1 = s.w1 ∧ t.wvalid = s.wvalid ∧
      ∀ a, OutsideOutput width s a → Memory.byteAt t.mem a = Memory.byteAt s.mem a)

/-- R35: "no filter command writes a byte of its read footprint" (R58, R59), whether it completes or aborts, in the middle or before. -/
def Obligations.FiltersKeepTheirSourceBytes : Prop :=
  (∀ (width : Nat) (s t : State), exec (.firs width) s = .next t →
    ∀ j, j < width + s.tapsnum.toNat - 1 →
      Memory.byteAt t.mem (s.src.toNat + j) = Memory.byteAt s.mem (s.src.toNat + j)) ∧
  (∀ (width : Nat) (s t : State), exec (.firv width) s = .next t →
    ∀ j, j < width + 13 →
      Memory.byteAt t.mem (s.src.toNat - delta s.tapsnum + j) = Memory.byteAt s.mem (s.src.toNat - delta s.tapsnum + j))

/-- R217: the same command issued again with the same registers and source bytes stores the same bytes, and so changes nothing. -/
def Obligations.RepeatedFilterChangesNothing : Prop :=
  (∀ (width : Nat) (s : State), State.Inv s → 0 < width → FirsReady width s →
    ∃ t, exec (.firs width) s = .next t ∧ exec (.firs width) t = .next t) ∧
  (∀ (width : Nat) (s : State), State.Inv s → FirvReady width s →
    ∃ t, exec (.firv width) s = .next t ∧ exec (.firv width) t = .next t)

/-- R31, R24: a write of a legal word to `CMD` runs the command it decodes to, and the host's index moves on; the command's
fault or refusal is the step's. -/
def Obligations.StepRunsTheDecodedCommand : Prop :=
  ∀ (s : State) (v : HostValue) (i : Instr), s.abort = false → nextOp s = some (.csrWrite 0 v) →
    decode (truncTo (Platform.xw s.platform) v) = .ok i →
    i.WellFormed ∧
    (∀ t, exec i s = .next t → step s = .next { t with index := t.index + 1 }) ∧
    (∀ f, exec i s = .fault f → step s = .fault f) ∧
    (∀ r, exec i s = .refused r → step s = .refused r)

/-- R24, R188: with no operation left the block is idle and keeps all its state; after an operation that completes the index has
moved by one and the list is as it was. -/
def Obligations.HostIndexAdvancesByOne : Prop :=
  (∀ s : State, nextOp s = none → step s = .next s) ∧
  (∀ (s t : State) (op : HostOp), nextOp s = some op → step s = .next t →
    t.index = s.index + 1 ∧ t.program = s.program)

/-- R7, R41: the platform's parameters "do not change during a run". -/
def Obligations.PlatformNeverChanges : Prop :=
  ∀ s t : State, step s = .next t → t.platform = s.platform

/-- R30: `WVALID` becomes 1 by a `PACK` alone. -/
def Obligations.OnlyPackMakesWindowsValid : Prop :=
  ∀ s t : State, step s = .next t → s.wvalid = false → t.wvalid = true →
    ∃ v, nextOp s = some (.csrWrite 0 v) ∧ s.abort = false ∧ decode (truncTo (Platform.xw s.platform) v) = .ok .pack

/-- R28: the windows "are written only by the `PACK` command ... and by `Reset`". -/
def Obligations.OnlyPackAndResetWriteWindows : Prop :=
  ∀ s t : State, step s = .next t → (t.w0 ≠ s.w0 ∨ t.w1 ≠ s.w1) →
    nextOp s = some .reset ∨
    ∃ v, nextOp s = some (.csrWrite 0 v) ∧ s.abort = false ∧ decode (truncTo (Platform.xw s.platform) v) = .ok .pack

/-- R36: of the block's operations "only the `FIRS` and `FIRV` commands reach" memory; beside them the host's direct stores do (R50). -/
def Obligations.OnlyFiltersAndTheHostWriteMemory : Prop :=
  ∀ s t : State, step s = .next t → t.mem ≠ s.mem →
    (∃ a bytes, nextOp s = some (.memStore a bytes)) ∨
    ∃ v width, nextOp s = some (.csrWrite 0 v) ∧ s.abort = false ∧
      (decode (truncTo (Platform.xw s.platform) v) = .ok (.firs width) ∨
       decode (truncTo (Platform.xw s.platform) v) = .ok (.firv width))

/-- The invariant at reset. -/
def Obligations.ResetStateSatisfiesTheInvariant : Prop := State.Inv State.reset

/-- Every step keeps the invariant: memory canonical and within the `2^AW` bytes (R36), `SRC` and `DST` `AW`-bit addresses (R23), `CAUSE`
0 exactly while `ABORT = 0` and no reserved code (R25, R171), and while `WVALID = 1` the windows the packing of the taps (R30). -/
def Obligations.EveryStepKeepsTheInvariant : Prop :=
  ∀ s t : State, State.Inv s → step s = .next t → State.Inv t
end

