-- ==== Sys2Proof/Laws/Memory.lean ====
section
/-! SUPPORT. What the memory operations do to a byte and to the canonical form. -/

namespace Sys2Proof.Machine

@[simp] theorem lookup_nil (a : Nat) : Memory.lookup [] a = none := rfl

theorem lookup_cons (x : Nat) (b : Byte) (m : Memory) (a : Nat) :
    Memory.lookup ((x, b) :: m) a = if a = x then some b else Memory.lookup m a := rfl

/-- Reading back the byte just written. -/
@[simp] theorem lookup_store_same (m : Memory) (a : Nat) (b : Byte) :
    Memory.lookup (Memory.store m a b) a = some b := by
  induction m with
  | nil => simp [Memory.store, lookup_cons]
  | cons c m ih =>
    obtain ⟨x, y⟩ := c
    simp only [Memory.store]
    split_ifs <;> simp_all [lookup_cons]

/-- A write leaves every other address alone. -/
theorem lookup_store_other (m : Memory) {a a' : Nat} (b : Byte) (h : a' ≠ a) :
    Memory.lookup (Memory.store m a b) a' = Memory.lookup m a' := by
  induction m with
  | nil => simp [Memory.store, lookup_cons, h]
  | cons c m ih =>
    obtain ⟨x, y⟩ := c
    simp only [Memory.store]
    split_ifs with h1 h2
    · simp [lookup_cons, h]
    · subst h2; simp [lookup_cons, h]
    · simp [lookup_cons, ih]

theorem lookup_store (m : Memory) (a a' : Nat) (b : Byte) :
    Memory.lookup (Memory.store m a b) a' = if a' = a then some b else Memory.lookup m a' := by
  by_cases h : a' = a
  · subst h; simp
  · simp [h, lookup_store_other]

/-- An address of the written memory is the one written or was there before. -/
theorem mem_store {m : Memory} {a : Nat} {b : Byte} {c : Host.Cell} (h : c ∈ Memory.store m a b) :
    c = (a, b) ∨ c ∈ m := by
  induction m with
  | nil => simpa [Memory.store] using h
  | cons d m ih =>
    obtain ⟨x, y⟩ := d
    simp only [Memory.store] at h
    split_ifs at h with h1 h2
    · simpa using h
    · simp only [List.mem_cons] at h ⊢; tauto
    · simp only [List.mem_cons] at h ⊢
      rcases h with h | h
      · tauto
      · rcases ih h with h | h <;> tauto

/-- Writing a byte keeps the canonical form. -/
theorem wf_store {m : Memory} (h : Memory.wf m) (a : Nat) (b : Byte) : Memory.wf (Memory.store m a b) := by
  induction m with
  | nil => simp [Memory.store, Memory.wf]
  | cons c m ih =>
    obtain ⟨x, y⟩ := c
    rw [Memory.wf, List.pairwise_cons] at h
    simp only [Memory.store]
    split_ifs with h1 h2
    · refine List.pairwise_cons.2 ⟨fun d hd => ?_, List.pairwise_cons.2 h⟩
      rcases List.mem_cons.1 hd with rfl | hd
      · exact h1
      · exact h1.trans (h.1 d hd)
    · subst h2; exact List.pairwise_cons.2 h
    · refine List.pairwise_cons.2 ⟨fun d hd => ?_, ih h.2⟩
      rcases mem_store hd with rfl | hd
      · show x < a; omega
      · exact h.1 d hd

theorem within_store {aw : Nat} {m : Memory} (h : Memory.within aw m) {a : Nat} (ha : a < 2 ^ aw) (b : Byte) :
    Memory.within aw (Memory.store m a b) := by
  intro c hc
  rcases mem_store hc with rfl | hc
  · exact ha
  · exact h c hc

/-- A byte the list gives is one of its entries. -/
theorem mem_of_lookup {m : Memory} {a : Nat} {b : Byte} (h : Memory.lookup m a = some b) : (a, b) ∈ m := by
  induction m with
  | nil => simp at h
  | cons c m ih =>
    obtain ⟨x, y⟩ := c
    rw [lookup_cons] at h
    split_ifs at h with hx
    · simp_all
    · exact List.mem_cons_of_mem _ (ih h)

/-- An address below every entry is not listed. -/
theorem lookup_none_of_below {m : Memory} {a : Nat} (h : ∀ c ∈ m, a < c.1) : Memory.lookup m a = none := by
  induction m with
  | nil => rfl
  | cons c m ih =>
    obtain ⟨x, y⟩ := c
    have hx : a < x := h (x, y) (by simp)
    rw [lookup_cons, if_neg (by omega)]
    exact ih fun c hc => h c (List.mem_cons_of_mem _ hc)

/-- Storing what the list already says changes nothing. -/
theorem store_of_lookup {m : Memory} (hm : Memory.wf m) {a : Nat} {b : Byte} (h : Memory.lookup m a = some b) :
    Memory.store m a b = m := by
  induction m with
  | nil => simp at h
  | cons c m ih =>
    obtain ⟨x, y⟩ := c
    rw [Memory.wf, List.pairwise_cons] at hm
    rw [lookup_cons] at h
    rw [Memory.store]
    by_cases h1 : a = x
    · subst h1
      rw [if_pos rfl, Option.some.injEq] at h
      simp [h]
    · rw [if_neg h1] at h
      have hlt : x < a := hm.1 _ (mem_of_lookup h)
      rw [if_neg (by omega), if_neg h1, ih hm.2 h]

/-- Two canonical memories that answer every lookup alike are the same list. -/
theorem ext_of_lookup {m m' : Memory} (hm : Memory.wf m) (hm' : Memory.wf m')
    (h : ∀ a, Memory.lookup m a = Memory.lookup m' a) : m = m' := by
  induction m generalizing m' with
  | nil =>
    cases m' with
    | nil => rfl
    | cons c m' => obtain ⟨x, y⟩ := c; have := h x; simp [lookup_cons] at this
  | cons c m ih =>
    obtain ⟨x, y⟩ := c
    rw [Memory.wf, List.pairwise_cons] at hm
    cases m' with
    | nil => have := h x; simp [lookup_cons] at this
    | cons c' m' =>
      obtain ⟨x', y'⟩ := c'
      rw [Memory.wf, List.pairwise_cons] at hm'
      have hx : x = x' := by
        rcases Nat.lt_trichotomy x x' with hlt | heq | hlt
        · have h1 := h x
          rw [lookup_cons, if_pos rfl, lookup_cons, if_neg (by omega),
            lookup_none_of_below fun c hc => hlt.trans (hm'.1 c hc)] at h1
          simp at h1
        · exact heq
        · have h1 := h x'
          rw [lookup_cons (x := x'), if_pos rfl, lookup_cons, if_neg (by omega),
            lookup_none_of_below fun c hc => hlt.trans (hm.1 c hc)] at h1
          simp at h1
      subst hx
      have hy : y = y' := by have h1 := h x; simpa [lookup_cons] using h1
      subst hy
      rw [ih hm.2 hm'.2]
      intro a
      by_cases ha : a = x
      · subst ha; rw [lookup_none_of_below hm.1, lookup_none_of_below hm'.1]
      · have h1 := h a; simpa [lookup_cons, ha] using h1

/-! ### Runs of bytes -/

/-- Everything a run of stores does to a lookup. -/
theorem lookup_storeBytes (bs : List Byte) (m : Memory) (a a' : Nat) :
    Memory.lookup (Memory.storeBytes m a bs) a' =
      if a ≤ a' ∧ a' < a + bs.length then bs[a' - a]? else Memory.lookup m a' := by
  induction bs generalizing m a with
  | nil => simp [Memory.storeBytes]
  | cons b bs ih =>
    rw [Memory.storeBytes, ih]
    simp only [List.length_cons]
    by_cases h1 : a' = a
    · subst h1; simp
    · by_cases h2 : a + 1 ≤ a' ∧ a' < a + 1 + bs.length
      · rw [if_pos h2, if_pos (by omega)]
        obtain ⟨d, rfl⟩ : ∃ d, a' = a + 1 + d := ⟨a' - (a + 1), by omega⟩
        rw [show a + 1 + d - (a + 1) = d by omega, show a + 1 + d - a = d + 1 by omega]; rfl
      · rw [if_neg h2, if_neg (by omega), lookup_store_other _ _ h1]

theorem wf_storeBytes (bs : List Byte) {m : Memory} (h : Memory.wf m) (a : Nat) :
    Memory.wf (Memory.storeBytes m a bs) := by
  induction bs generalizing m a with
  | nil => exact h
  | cons b bs ih => exact ih (wf_store h a b) (a + 1)

theorem within_storeBytes {aw : Nat} (bs : List Byte) {m : Memory} (h : Memory.within aw m) {a : Nat}
    (ha : a + bs.length ≤ 2 ^ aw) : Memory.within aw (Memory.storeBytes m a bs) := by
  induction bs generalizing m a with
  | nil => exact h
  | cons b bs ih =>
    simp only [List.length_cons] at ha
    exact ih (within_store h (by omega) b) (by omega)

/-- Everything `scramble` does to a lookup: `n` free values from `a` on, all else as before. -/
theorem lookup_scramble (n : Nat) (m : Memory) (a k a' : Nat) :
    Memory.lookup (Memory.scramble m a k n) a' =
      if a ≤ a' ∧ a' < a + n then some (Config.freeByte (k + (a' - a))) else Memory.lookup m a' := by
  induction n generalizing m a k with
  | zero => simp [Memory.scramble]
  | succ n ih =>
    rw [Memory.scramble, ih]
    by_cases h1 : a' = a
    · subst h1; simp
    · by_cases h2 : a + 1 ≤ a' ∧ a' < a + 1 + n
      · rw [if_pos h2, if_pos (by omega), show k + 1 + (a' - (a + 1)) = k + (a' - a) by omega]
      · rw [if_neg h2, if_neg (by omega), lookup_store_other _ _ h1]

theorem wf_scramble (n : Nat) {m : Memory} (h : Memory.wf m) (a k : Nat) : Memory.wf (Memory.scramble m a k n) := by
  induction n generalizing m a k with
  | zero => exact h
  | succ n ih => exact ih (wf_store h a _) _ _

theorem within_scramble {aw : Nat} (n : Nat) {m : Memory} (h : Memory.within aw m) {a : Nat} (k : Nat)
    (ha : a + n ≤ 2 ^ aw) : Memory.within aw (Memory.scramble m a k n) := by
  induction n generalizing m a k with
  | zero => exact h
  | succ n ih => exact ih (within_store h (by omega) _) _ (by omega)

@[simp] theorem length_bytesAt (m : Memory) (n a : Nat) : (Memory.bytesAt m a n).length = n := by
  induction n generalizing a with
  | zero => rfl
  | succ n ih => simp [Memory.bytesAt, ih]

theorem getElem?_bytesAt (m : Memory) (n a j : Nat) :
    (Memory.bytesAt m a n)[j]? = if j < n then some (Memory.byteAt m (a + j)) else none := by
  induction n generalizing a j with
  | zero => simp [Memory.bytesAt]
  | succ n ih =>
    cases j with
    | zero => simp [Memory.bytesAt]
    | succ j => simp [Memory.bytesAt, ih, Nat.add_assoc, Nat.add_comm 1 j]

/-- A run of bytes depends on those bytes alone. -/
theorem bytesAt_congr {m m' : Memory} {n a : Nat}
    (h : ∀ j < n, Memory.byteAt m (a + j) = Memory.byteAt m' (a + j)) :
    Memory.bytesAt m a n = Memory.bytesAt m' a n := by
  apply List.ext_getElem?
  intro j
  rw [getElem?_bytesAt, getElem?_bytesAt]
  split_ifs with hj
  · rw [h j hj]
  · rfl

theorem byteAt_of_lookup {m m' : Memory} {a : Nat} (h : Memory.lookup m a = Memory.lookup m' a) :
    Memory.byteAt m a = Memory.byteAt m' a := by simp [Memory.byteAt, h]

end Sys2Proof.Machine
end

