-- ==== Sys2Proof/Laws/Access.lean ====
section
/-! SUPPORT. Everything `MemRead` and `MemWrite` can answer (R53, R54). -/

namespace Sys2Proof.Machine

/-- `MemRead` answers the bytes exactly when all of them are readable. -/
theorem memRead_ok_of_readable {p : Platform} {m : Memory} {a n : Nat}
    (h : ∀ j < n, Platform.canRead p (a + j) = true) : memRead p m a n = .ok (Memory.bytesAt m a n) := by
  induction n generalizing a with
  | zero => rfl
  | succ n ih =>
    have h0 := h 0 (by omega)
    rw [memRead, if_pos (by simpa using h0), ih fun j hj => by
      have := h (j + 1) (by omega); rwa [show a + (j + 1) = a + 1 + j by omega] at this]
    rfl

/-- Otherwise it raises `SRC_MARGIN`. -/
theorem memRead_error_of_unreadable {p : Platform} {m : Memory} {a n j : Nat} (hj : j < n)
    (h : Platform.canRead p (a + j) = false) : memRead p m a n = .error .srcMargin := by
  induction n generalizing a j with
  | zero => omega
  | succ n ih =>
    rw [memRead]
    split_ifs with ha
    · cases j with
      | zero => simp_all
      | succ j => rw [ih (j := j) (by omega) (by rwa [show a + 1 + j = a + (j + 1) by omega])]
    · rfl

/-- All `MemRead` can answer. -/
theorem memRead_cases (p : Platform) (m : Memory) (a n : Nat) :
    (memRead p m a n = .ok (Memory.bytesAt m a n) ∧ ∀ j < n, Platform.canRead p (a + j) = true) ∨
    (memRead p m a n = .error .srcMargin ∧ ∃ j < n, Platform.canRead p (a + j) = false) := by
  by_cases h : ∀ j < n, Platform.canRead p (a + j) = true
  · exact .inl ⟨memRead_ok_of_readable h, h⟩
  · push Not at h
    obtain ⟨j, hj, hr⟩ := h
    have hr : Platform.canRead p (a + j) = false := by simpa using hr
    exact .inr ⟨memRead_error_of_unreadable hj hr, j, hj, hr⟩

/-- `MemWrite` stores the bytes exactly when all of them are writable. -/
theorem memWrite_ok_of_writable {p : Platform} {bs : List Byte} {m : Memory} {a : Nat}
    (h : ∀ j < bs.length, Platform.canWrite p (a + j) = true) :
    memWrite p m a bs = .ok (Memory.storeBytes m a bs) := by
  induction bs generalizing m a with
  | nil => rfl
  | cons b bs ih =>
    have h0 := h 0 (by simp)
    rw [memWrite, if_pos (by simpa using h0), ih fun j hj => by
      have := h (j + 1) (by simpa using hj); rwa [show a + (j + 1) = a + 1 + j by omega] at this]
    rfl

/-- Otherwise it raises `DST_ACCESS`. -/
theorem memWrite_error_of_unwritable {p : Platform} {bs : List Byte} {m : Memory} {a j : Nat} (hj : j < bs.length)
    (h : Platform.canWrite p (a + j) = false) : memWrite p m a bs = .error .dstAccess := by
  induction bs generalizing m a j with
  | nil => simp at hj
  | cons b bs ih =>
    rw [memWrite]
    split_ifs with ha
    · cases j with
      | zero => simp_all
      | succ j =>
        exact ih (j := j) (by simpa using hj) (by rwa [show a + 1 + j = a + (j + 1) by omega])
    · rfl

/-- All `MemWrite` can answer. -/
theorem memWrite_cases (p : Platform) (m : Memory) (a : Nat) (bs : List Byte) :
    (memWrite p m a bs = .ok (Memory.storeBytes m a bs) ∧ ∀ j < bs.length, Platform.canWrite p (a + j) = true) ∨
    (memWrite p m a bs = .error .dstAccess ∧ ∃ j < bs.length, Platform.canWrite p (a + j) = false) := by
  by_cases h : ∀ j < bs.length, Platform.canWrite p (a + j) = true
  · exact .inl ⟨memWrite_ok_of_writable h, h⟩
  · push Not at h
    obtain ⟨j, hj, hr⟩ := h
    have hr : Platform.canWrite p (a + j) = false := by simpa using hr
    exact .inr ⟨memWrite_error_of_unwritable hj hr, j, hj, hr⟩

end Sys2Proof.Machine
end

