-- ==== Sys2Proof/Laws/Arith.lean ====
section
/-! SUPPORT. The arithmetic primitives in the terms `omega` knows. -/

namespace Sys2Proof.Machine

theorem clamp_eq (v lo hi : Int) (h : lo ≤ hi) : clamp v lo hi = max lo (min hi v) := by
  unfold clamp; split_ifs <;> omega

theorem sat16_eq (v : Int) : sat16 v = max (-32768) (min 32767 v) := clamp_eq _ _ _ (by decide)

theorem sat16_bounds (v : Int) : -32768 ≤ sat16 v ∧ sat16 v ≤ 32767 := by rw [sat16_eq]; omega

/-- Saturation changes no value that fits. -/
theorem sat16_of_fits {v : Int} (h : -32768 ≤ v ∧ v ≤ 32767) : sat16 v = v := by rw [sat16_eq]; omega

theorem satu8_eq (v : Int) : satu8 v = max 0 (min 255 v) := clamp_eq _ _ _ (by decide)

theorem shiftRightArith_seven (v : Int) : shiftRightArith v 7 = v / 128 := rfl

theorem shiftRightArith_fifteen (v : Int) : shiftRightArith v 15 = v / 32768 := rfl

theorem roundPowerOfTwo_seven (v : Int) : roundPowerOfTwo v 7 = (v + 64) / 128 := rfl

/-- A byte made of a value of 0..255 holds that value. -/
theorem toNat_byteOf {v : Int} (h0 : 0 ≤ v) (h1 : v ≤ 255) : ((byteOf v).toNat : Int) = v := by
  rw [byteOf, BitVec.toNat_ofInt]; omega

/-- The value of `FIRS`'s output byte. -/
theorem toNat_outputPixel (sum : Int) : ((outputPixel sum).toNat : Int) = max 0 (min 255 ((sum + 64) / 128)) := by
  have h : clamp (roundPowerOfTwo sum Config.scaleBits) Config.pixelMin Config.pixelMax = max 0 (min 255 ((sum + 64) / 128)) :=
    clamp_eq _ _ _ (by decide)
  rw [outputPixel, h, toNat_byteOf (by omega) (by omega)]

/-- The value of `FIRV`'s output byte for a final sum. -/
theorem toNat_packUs (q : Int) : ((packUs q).toNat : Int) = max 0 (min 255 q) := by
  rw [packUs, satu8_eq, toNat_byteOf (by omega) (by omega)]

theorem toNat_truncTo (n : Nat) (v : HostValue) : (truncTo n v).toNat = v.toNat % 2 ^ n := by
  rw [truncTo, BitVec.toNat_ofNat, Nat.mod_eq_of_lt]
  exact (Nat.mod_le _ _).trans_lt v.isLt

theorem toNat_truncTo_lt (n : Nat) (v : HostValue) : (truncTo n v).toNat < 2 ^ n := by
  rw [toNat_truncTo]; exact Nat.mod_lt _ (Nat.two_pow_pos n)

theorem truncTo_of_lt {n : Nat} {v : HostValue} (h : v.toNat < 2 ^ n) : truncTo n v = v :=
  BitVec.eq_of_toNat_eq (by rw [toNat_truncTo, Nat.mod_eq_of_lt h])

theorem adds_of_fits {a b : Int} (h : -32768 ≤ a + b ∧ a + b ≤ 32767) : adds a b = a + b := sat16_of_fits h

theorem minLane_eq (a b : Int) : minLane a b = min a b := by unfold minLane; split_ifs <;> omega

theorem maxLane_eq (a b : Int) : maxLane a b = max a b := by unfold maxLane; split_ifs <;> omega

end Sys2Proof.Machine
end

