-- ==== Sys2Proof/Laws/Scalar.lean ====
section
/-! SUPPORT. Everything the loops of `FIRS` can do (R101). -/

namespace Sys2Proof.Machine

/-- The sum the inner loop forms, on a memory all of whose bytes may be read. -/
def dotValue (m : Memory) : List Int → Nat → Int
  | [], _ => 0
  | t :: ts, a => ((Memory.byteAt m a).toNat : Int) * t + dotValue m ts (a + 1)

theorem dotProduct_ok {p : Platform} {m : Memory} {ts : List Int} {a : Nat}
    (h : ∀ j < ts.length, Platform.canRead p (a + j) = true) : dotProduct p m ts a = .ok (dotValue m ts a) := by
  induction ts generalizing a with
  | nil => rfl
  | cons t ts ih =>
    have h1 : memRead p m a 1 = .ok [Memory.byteAt m a] :=
      memRead_ok_of_readable (n := 1) fun j hj => by
        obtain rfl : j = 0 := by omega
        exact h 0 (by simp)
    have h2 := ih (a := a + 1) fun j hj => by
      have := h (j + 1) (by simpa using hj); rwa [show a + (j + 1) = a + 1 + j by omega] at this
    simp only [dotProduct, h1, h2]; rfl

theorem dotProduct_error {p : Platform} {m : Memory} {ts : List Int} {a j : Nat} (hj : j < ts.length)
    (h : Platform.canRead p (a + j) = false) : dotProduct p m ts a = .error .srcMargin := by
  induction ts generalizing a j with
  | nil => simp at hj
  | cons t ts ih =>
    rcases memRead_cases p m a 1 with ⟨h1, hr⟩ | ⟨h1, -⟩
    · cases j with
      | zero => have := hr 0 (by omega); simp_all
      | succ j =>
        have h2 := ih (a := a + 1) (j := j) (by simpa using hj) (by rwa [show a + 1 + j = a + (j + 1) by omega])
        simp only [dotProduct, h1, h2]
    · simp only [dotProduct, h1]

/-- All the inner loop can answer. -/
theorem dotProduct_cases (p : Platform) (m : Memory) (ts : List Int) (a : Nat) :
    (dotProduct p m ts a = .ok (dotValue m ts a) ∧ ∀ j < ts.length, Platform.canRead p (a + j) = true) ∨
    (dotProduct p m ts a = .error .srcMargin ∧ ∃ j < ts.length, Platform.canRead p (a + j) = false) := by
  by_cases h : ∀ j < ts.length, Platform.canRead p (a + j) = true
  · exact .inl ⟨dotProduct_ok h, h⟩
  · push Not at h
    obtain ⟨j, hj, hr⟩ := h
    have hr : Platform.canRead p (a + j) = false := by simpa using hr
    exact .inr ⟨dotProduct_error hj hr, j, hj, hr⟩

/-- The sum depends on the bytes it reads alone. -/
theorem dotValue_congr {m m' : Memory} {ts : List Int} {a : Nat}
    (h : ∀ j < ts.length, Memory.byteAt m (a + j) = Memory.byteAt m' (a + j)) : dotValue m ts a = dotValue m' ts a := by
  induction ts generalizing a with
  | nil => rfl
  | cons t ts ih =>
    have h0 := h 0 (by simp)
    simp only [Nat.add_zero] at h0
    rw [dotValue, dotValue, h0, ih fun j hj => by
      have := h (j + 1) (by simpa using hj); rwa [show a + (j + 1) = a + 1 + j by omega] at this]

/-- One pixel of the outer loop. -/
theorem filterRow_succ (p : Platform) (ts : List Int) (n s d : Nat) (m : Memory) :
    (∃ c, filterRow p ts (n + 1) s d m = .error c ∧ (c = .srcMargin ∨ c = .dstAccess)) ∨
    (filterRow p ts (n + 1) s d m =
      filterRow p ts n (s + 1) (d + 1) (Memory.store m d (outputPixel (dotValue m ts s))) ∧
      Platform.canWrite p d = true ∧ ∀ j < ts.length, Platform.canRead p (s + j) = true) := by
  rcases dotProduct_cases p m ts s with ⟨h, hr⟩ | ⟨h, -⟩
  · by_cases hw : Platform.canWrite p d
    · exact .inr ⟨by simp [filterRow, h, memWrite, hw], hw, hr⟩
    · exact .inl ⟨.dstAccess, by simp [filterRow, h, memWrite, hw], .inr rfl⟩
  · exact .inl ⟨.srcMargin, by simp [filterRow, h], .inl rfl⟩

/-- The outer loop raises no cause but the two of a memory access. -/
theorem filterRow_error {p : Platform} {ts : List Int} {n s d : Nat} {m : Memory} {c : Cause}
    (h : filterRow p ts n s d m = .error c) : c = .srcMargin ∨ c = .dstAccess := by
  induction n generalizing s d m with
  | zero => simp [filterRow] at h
  | succ n ih =>
    rcases filterRow_succ p ts n s d m with ⟨c', h', hc⟩ | ⟨h', -⟩
    · rw [h'] at h; cases h; exact hc
    · exact ih (h' ▸ h)

/-- The outer loop writes its output addresses alone and keeps the canonical form. -/
theorem filterRow_frame {p : Platform} {ts : List Int} {n s d : Nat} {m m' : Memory}
    (h : filterRow p ts n s d m = .ok m') :
    (∀ a, a < d ∨ d + n ≤ a → Memory.lookup m' a = Memory.lookup m a) ∧ (Memory.wf m → Memory.wf m') ∧
    (∀ aw, d + n ≤ 2 ^ aw → Memory.within aw m → Memory.within aw m') := by
  induction n generalizing s d m with
  | zero => simp only [filterRow, Except.ok.injEq] at h; subst h; exact ⟨fun _ _ => rfl, id, fun _ _ => id⟩
  | succ n ih =>
    rcases filterRow_succ p ts n s d m with ⟨c', h', -⟩ | ⟨h', -⟩
    · rw [h'] at h; cases h
    · obtain ⟨h1, h2, h3⟩ := ih (h' ▸ h)
      exact ⟨fun a ha => by rw [h1 a (by omega), lookup_store_other _ _ (by omega)],
        fun hm => h2 (wf_store hm _ _), fun aw ha hm => h3 aw (by omega) (within_store hm (by omega) _)⟩

/-- What the outer loop computes when it may reach every byte and its output lies clear of its sources: each output byte is
R101's pixel of the memory before the command. -/
theorem filterRow_ok {p : Platform} {ts : List Int} {n s d : Nat} {m : Memory}
    (hr : ∀ j < n + ts.length - 1, Platform.canRead p (s + j) = true)
    (hw : ∀ i < n, Platform.canWrite p (d + i) = true)
    (hd : s + (n + ts.length - 1) ≤ d ∨ d + n ≤ s) :
    ∃ m', filterRow p ts n s d m = .ok m' ∧
      ∀ i < n, Memory.lookup m' (d + i) = some (outputPixel (dotValue m ts (s + i))) := by
  induction n generalizing s d m with
  | zero => exact ⟨m, rfl, fun i hi => by omega⟩
  | succ n ih =>
    have hdot : dotProduct p m ts s = .ok (dotValue m ts s) := dotProduct_ok fun j hj => hr j (by omega)
    have hw0 : Platform.canWrite p d = true := by simpa using hw 0 (by omega)
    have hstep : filterRow p ts (n + 1) s d m =
        filterRow p ts n (s + 1) (d + 1) (Memory.store m d (outputPixel (dotValue m ts s))) := by
      simp [filterRow, hdot, memWrite, hw0]
    obtain ⟨m', h1, h2⟩ := ih (s := s + 1) (d := d + 1) (m := Memory.store m d (outputPixel (dotValue m ts s)))
      (fun j hj => by have := hr (j + 1) (by omega); rwa [show s + (j + 1) = s + 1 + j by omega] at this)
      (fun i hi => by have := hw (i + 1) (by omega); rwa [show d + (i + 1) = d + 1 + i by omega] at this)
      (by omega)
    refine ⟨m', hstep.trans h1, fun i hi => ?_⟩
    cases i with
    | zero =>
      have := (filterRow_frame h1).1 d (by omega)
      simp [this]
    | succ i =>
      have h3 := h2 i (by omega)
      rw [show d + (i + 1) = d + 1 + i by omega, h3, show s + (i + 1) = s + 1 + i by omega]
      congr 2
      apply dotValue_congr
      intro j hj
      exact byteAt_of_lookup (lookup_store_other _ _ (by omega))

end Sys2Proof.Machine
end

