-- ==== Sys2Proof/Laws/State.lean ====
section
/-! SUPPORT. One lemma per field per named update of the state, so that no proof unfolds a record update. -/

namespace Sys2Proof.Machine

@[simp] theorem aborted_src (c : Cause) (s : State) : (State.aborted c s).src = s.src := rfl
@[simp] theorem aborted_dst (c : Cause) (s : State) : (State.aborted c s).dst = s.dst := rfl
@[simp] theorem aborted_tapsnum (c : Cause) (s : State) : (State.aborted c s).tapsnum = s.tapsnum := rfl
@[simp] theorem aborted_taps (c : Cause) (s : State) : (State.aborted c s).taps = s.taps := rfl
@[simp] theorem aborted_w0 (c : Cause) (s : State) : (State.aborted c s).w0 = s.w0 := rfl
@[simp] theorem aborted_w1 (c : Cause) (s : State) : (State.aborted c s).w1 = s.w1 := rfl
@[simp] theorem aborted_wvalid (c : Cause) (s : State) : (State.aborted c s).wvalid = s.wvalid := rfl
@[simp] theorem aborted_abort (c : Cause) (s : State) : (State.aborted c s).abort = true := rfl
@[simp] theorem aborted_cause (c : Cause) (s : State) : (State.aborted c s).cause = causeCode c := rfl
@[simp] theorem aborted_mem (c : Cause) (s : State) : (State.aborted c s).mem = s.mem := rfl
@[simp] theorem aborted_srcWritten (c : Cause) (s : State) : (State.aborted c s).srcWritten = s.srcWritten := rfl
@[simp] theorem aborted_dstWritten (c : Cause) (s : State) : (State.aborted c s).dstWritten = s.dstWritten := rfl
@[simp] theorem aborted_tapsWritten (c : Cause) (s : State) : (State.aborted c s).tapsWritten = s.tapsWritten := rfl
@[simp] theorem aborted_freeNext (c : Cause) (s : State) : (State.aborted c s).freeNext = s.freeNext := rfl
@[simp] theorem aborted_platform (c : Cause) (s : State) : (State.aborted c s).platform = s.platform := rfl
@[simp] theorem aborted_program (c : Cause) (s : State) : (State.aborted c s).program = s.program := rfl
@[simp] theorem aborted_index (c : Cause) (s : State) : (State.aborted c s).index = s.index := rfl
@[simp] theorem aborted_returned (c : Cause) (s : State) : (State.aborted c s).returned = s.returned := rfl

@[simp] theorem windowsStale_src (s : State) : (State.windowsStale s).src = s.src := rfl
@[simp] theorem windowsStale_dst (s : State) : (State.windowsStale s).dst = s.dst := rfl
@[simp] theorem windowsStale_tapsnum (s : State) : (State.windowsStale s).tapsnum = s.tapsnum := rfl
@[simp] theorem windowsStale_taps (s : State) : (State.windowsStale s).taps = s.taps := rfl
@[simp] theorem windowsStale_w0 (s : State) : (State.windowsStale s).w0 = s.w0 := rfl
@[simp] theorem windowsStale_w1 (s : State) : (State.windowsStale s).w1 = s.w1 := rfl
@[simp] theorem windowsStale_wvalid (s : State) : (State.windowsStale s).wvalid = false := rfl
@[simp] theorem windowsStale_abort (s : State) : (State.windowsStale s).abort = s.abort := rfl
@[simp] theorem windowsStale_cause (s : State) : (State.windowsStale s).cause = s.cause := rfl
@[simp] theorem windowsStale_mem (s : State) : (State.windowsStale s).mem = s.mem := rfl
@[simp] theorem windowsStale_srcWritten (s : State) : (State.windowsStale s).srcWritten = s.srcWritten := rfl
@[simp] theorem windowsStale_dstWritten (s : State) : (State.windowsStale s).dstWritten = s.dstWritten := rfl
@[simp] theorem windowsStale_tapsWritten (s : State) : (State.windowsStale s).tapsWritten = s.tapsWritten := rfl
@[simp] theorem windowsStale_freeNext (s : State) : (State.windowsStale s).freeNext = s.freeNext := rfl
@[simp] theorem windowsStale_platform (s : State) : (State.windowsStale s).platform = s.platform := rfl
@[simp] theorem windowsStale_program (s : State) : (State.windowsStale s).program = s.program := rfl
@[simp] theorem windowsStale_index (s : State) : (State.windowsStale s).index = s.index := rfl
@[simp] theorem windowsStale_returned (s : State) : (State.windowsStale s).returned = s.returned := rfl

@[simp] theorem outputUnspecified_src (n : Nat) (s : State) : (State.outputUnspecified n s).src = s.src := rfl
@[simp] theorem outputUnspecified_dst (n : Nat) (s : State) : (State.outputUnspecified n s).dst = s.dst := rfl
@[simp] theorem outputUnspecified_tapsnum (n : Nat) (s : State) : (State.outputUnspecified n s).tapsnum = s.tapsnum := rfl
@[simp] theorem outputUnspecified_taps (n : Nat) (s : State) : (State.outputUnspecified n s).taps = s.taps := rfl
@[simp] theorem outputUnspecified_w0 (n : Nat) (s : State) : (State.outputUnspecified n s).w0 = s.w0 := rfl
@[simp] theorem outputUnspecified_w1 (n : Nat) (s : State) : (State.outputUnspecified n s).w1 = s.w1 := rfl
@[simp] theorem outputUnspecified_wvalid (n : Nat) (s : State) : (State.outputUnspecified n s).wvalid = s.wvalid := rfl
@[simp] theorem outputUnspecified_abort (n : Nat) (s : State) : (State.outputUnspecified n s).abort = s.abort := rfl
@[simp] theorem outputUnspecified_cause (n : Nat) (s : State) : (State.outputUnspecified n s).cause = s.cause := rfl
@[simp] theorem outputUnspecified_mem (n : Nat) (s : State) : (State.outputUnspecified n s).mem = Memory.scramble s.mem s.dst.toNat s.freeNext n := rfl
@[simp] theorem outputUnspecified_srcWritten (n : Nat) (s : State) : (State.outputUnspecified n s).srcWritten = s.srcWritten := rfl
@[simp] theorem outputUnspecified_dstWritten (n : Nat) (s : State) : (State.outputUnspecified n s).dstWritten = s.dstWritten := rfl
@[simp] theorem outputUnspecified_tapsWritten (n : Nat) (s : State) : (State.outputUnspecified n s).tapsWritten = s.tapsWritten := rfl
@[simp] theorem outputUnspecified_freeNext (n : Nat) (s : State) : (State.outputUnspecified n s).freeNext = s.freeNext + n := rfl
@[simp] theorem outputUnspecified_platform (n : Nat) (s : State) : (State.outputUnspecified n s).platform = s.platform := rfl
@[simp] theorem outputUnspecified_program (n : Nat) (s : State) : (State.outputUnspecified n s).program = s.program := rfl
@[simp] theorem outputUnspecified_index (n : Nat) (s : State) : (State.outputUnspecified n s).index = s.index := rfl
@[simp] theorem outputUnspecified_returned (n : Nat) (s : State) : (State.outputUnspecified n s).returned = s.returned := rfl

@[simp] theorem withMemory_src (m : Memory) (s : State) : (State.withMemory m s).src = s.src := rfl
@[simp] theorem withMemory_dst (m : Memory) (s : State) : (State.withMemory m s).dst = s.dst := rfl
@[simp] theorem withMemory_tapsnum (m : Memory) (s : State) : (State.withMemory m s).tapsnum = s.tapsnum := rfl
@[simp] theorem withMemory_taps (m : Memory) (s : State) : (State.withMemory m s).taps = s.taps := rfl
@[simp] theorem withMemory_w0 (m : Memory) (s : State) : (State.withMemory m s).w0 = s.w0 := rfl
@[simp] theorem withMemory_w1 (m : Memory) (s : State) : (State.withMemory m s).w1 = s.w1 := rfl
@[simp] theorem withMemory_wvalid (m : Memory) (s : State) : (State.withMemory m s).wvalid = s.wvalid := rfl
@[simp] theorem withMemory_abort (m : Memory) (s : State) : (State.withMemory m s).abort = s.abort := rfl
@[simp] theorem withMemory_cause (m : Memory) (s : State) : (State.withMemory m s).cause = s.cause := rfl
@[simp] theorem withMemory_mem (m : Memory) (s : State) : (State.withMemory m s).mem = m := rfl
@[simp] theorem withMemory_srcWritten (m : Memory) (s : State) : (State.withMemory m s).srcWritten = s.srcWritten := rfl
@[simp] theorem withMemory_dstWritten (m : Memory) (s : State) : (State.withMemory m s).dstWritten = s.dstWritten := rfl
@[simp] theorem withMemory_tapsWritten (m : Memory) (s : State) : (State.withMemory m s).tapsWritten = s.tapsWritten := rfl
@[simp] theorem withMemory_freeNext (m : Memory) (s : State) : (State.withMemory m s).freeNext = s.freeNext := rfl
@[simp] theorem withMemory_platform (m : Memory) (s : State) : (State.withMemory m s).platform = s.platform := rfl
@[simp] theorem withMemory_program (m : Memory) (s : State) : (State.withMemory m s).program = s.program := rfl
@[simp] theorem withMemory_index (m : Memory) (s : State) : (State.withMemory m s).index = s.index := rfl
@[simp] theorem withMemory_returned (m : Memory) (s : State) : (State.withMemory m s).returned = s.returned := rfl

@[simp] theorem blockReset_src (s : State) : (State.blockReset s).src = 0 := rfl
@[simp] theorem blockReset_dst (s : State) : (State.blockReset s).dst = 0 := rfl
@[simp] theorem blockReset_tapsnum (s : State) : (State.blockReset s).tapsnum = 0 := rfl
@[simp] theorem blockReset_taps (s : State) : (State.blockReset s).taps = Vector.replicate 12 0 := rfl
@[simp] theorem blockReset_w0 (s : State) : (State.blockReset s).w0 = Vector.replicate 16 0 := rfl
@[simp] theorem blockReset_w1 (s : State) : (State.blockReset s).w1 = Vector.replicate 16 0 := rfl
@[simp] theorem blockReset_wvalid (s : State) : (State.blockReset s).wvalid = false := rfl
@[simp] theorem blockReset_abort (s : State) : (State.blockReset s).abort = false := rfl
@[simp] theorem blockReset_cause (s : State) : (State.blockReset s).cause = 0 := rfl
@[simp] theorem blockReset_mem (s : State) : (State.blockReset s).mem = s.mem := rfl
@[simp] theorem blockReset_srcWritten (s : State) : (State.blockReset s).srcWritten = false := rfl
@[simp] theorem blockReset_dstWritten (s : State) : (State.blockReset s).dstWritten = false := rfl
@[simp] theorem blockReset_tapsWritten (s : State) : (State.blockReset s).tapsWritten = Vector.replicate 12 false := rfl
@[simp] theorem blockReset_freeNext (s : State) : (State.blockReset s).freeNext = s.freeNext := rfl
@[simp] theorem blockReset_platform (s : State) : (State.blockReset s).platform = s.platform := rfl
@[simp] theorem blockReset_program (s : State) : (State.blockReset s).program = s.program := rfl
@[simp] theorem blockReset_index (s : State) : (State.blockReset s).index = s.index := rfl
@[simp] theorem blockReset_returned (s : State) : (State.blockReset s).returned = s.returned := rfl

@[simp] theorem writeSrc_src (v : HostValue) (s : State) : (State.writeSrc v s).src = truncTo s.platform.aw v := rfl
@[simp] theorem writeSrc_dst (v : HostValue) (s : State) : (State.writeSrc v s).dst = s.dst := rfl
@[simp] theorem writeSrc_tapsnum (v : HostValue) (s : State) : (State.writeSrc v s).tapsnum = s.tapsnum := rfl
@[simp] theorem writeSrc_taps (v : HostValue) (s : State) : (State.writeSrc v s).taps = s.taps := rfl
@[simp] theorem writeSrc_w0 (v : HostValue) (s : State) : (State.writeSrc v s).w0 = s.w0 := rfl
@[simp] theorem writeSrc_w1 (v : HostValue) (s : State) : (State.writeSrc v s).w1 = s.w1 := rfl
@[simp] theorem writeSrc_wvalid (v : HostValue) (s : State) : (State.writeSrc v s).wvalid = s.wvalid := rfl
@[simp] theorem writeSrc_abort (v : HostValue) (s : State) : (State.writeSrc v s).abort = s.abort := rfl
@[simp] theorem writeSrc_cause (v : HostValue) (s : State) : (State.writeSrc v s).cause = s.cause := rfl
@[simp] theorem writeSrc_mem (v : HostValue) (s : State) : (State.writeSrc v s).mem = s.mem := rfl
@[simp] theorem writeSrc_srcWritten (v : HostValue) (s : State) : (State.writeSrc v s).srcWritten = true := rfl
@[simp] theorem writeSrc_dstWritten (v : HostValue) (s : State) : (State.writeSrc v s).dstWritten = s.dstWritten := rfl
@[simp] theorem writeSrc_tapsWritten (v : HostValue) (s : State) : (State.writeSrc v s).tapsWritten = s.tapsWritten := rfl
@[simp] theorem writeSrc_freeNext (v : HostValue) (s : State) : (State.writeSrc v s).freeNext = s.freeNext := rfl
@[simp] theorem writeSrc_platform (v : HostValue) (s : State) : (State.writeSrc v s).platform = s.platform := rfl
@[simp] theorem writeSrc_program (v : HostValue) (s : State) : (State.writeSrc v s).program = s.program := rfl
@[simp] theorem writeSrc_index (v : HostValue) (s : State) : (State.writeSrc v s).index = s.index := rfl
@[simp] theorem writeSrc_returned (v : HostValue) (s : State) : (State.writeSrc v s).returned = s.returned := rfl

@[simp] theorem writeDst_src (v : HostValue) (s : State) : (State.writeDst v s).src = s.src := rfl
@[simp] theorem writeDst_dst (v : HostValue) (s : State) : (State.writeDst v s).dst = truncTo s.platform.aw v := rfl
@[simp] theorem writeDst_tapsnum (v : HostValue) (s : State) : (State.writeDst v s).tapsnum = s.tapsnum := rfl
@[simp] theorem writeDst_taps (v : HostValue) (s : State) : (State.writeDst v s).taps = s.taps := rfl
@[simp] theorem writeDst_w0 (v : HostValue) (s : State) : (State.writeDst v s).w0 = s.w0 := rfl
@[simp] theorem writeDst_w1 (v : HostValue) (s : State) : (State.writeDst v s).w1 = s.w1 := rfl
@[simp] theorem writeDst_wvalid (v : HostValue) (s : State) : (State.writeDst v s).wvalid = s.wvalid := rfl
@[simp] theorem writeDst_abort (v : HostValue) (s : State) : (State.writeDst v s).abort = s.abort := rfl
@[simp] theorem writeDst_cause (v : HostValue) (s : State) : (State.writeDst v s).cause = s.cause := rfl
@[simp] theorem writeDst_mem (v : HostValue) (s : State) : (State.writeDst v s).mem = s.mem := rfl
@[simp] theorem writeDst_srcWritten (v : HostValue) (s : State) : (State.writeDst v s).srcWritten = s.srcWritten := rfl
@[simp] theorem writeDst_dstWritten (v : HostValue) (s : State) : (State.writeDst v s).dstWritten = true := rfl
@[simp] theorem writeDst_tapsWritten (v : HostValue) (s : State) : (State.writeDst v s).tapsWritten = s.tapsWritten := rfl
@[simp] theorem writeDst_freeNext (v : HostValue) (s : State) : (State.writeDst v s).freeNext = s.freeNext := rfl
@[simp] theorem writeDst_platform (v : HostValue) (s : State) : (State.writeDst v s).platform = s.platform := rfl
@[simp] theorem writeDst_program (v : HostValue) (s : State) : (State.writeDst v s).program = s.program := rfl
@[simp] theorem writeDst_index (v : HostValue) (s : State) : (State.writeDst v s).index = s.index := rfl
@[simp] theorem writeDst_returned (v : HostValue) (s : State) : (State.writeDst v s).returned = s.returned := rfl

@[simp] theorem writeTapsnum_src (v : HostValue) (s : State) : (State.writeTapsnum v s).src = s.src := rfl
@[simp] theorem writeTapsnum_dst (v : HostValue) (s : State) : (State.writeTapsnum v s).dst = s.dst := rfl
@[simp] theorem writeTapsnum_tapsnum (v : HostValue) (s : State) : (State.writeTapsnum v s).tapsnum = v.setWidth 4 := rfl
@[simp] theorem writeTapsnum_taps (v : HostValue) (s : State) : (State.writeTapsnum v s).taps = s.taps := rfl
@[simp] theorem writeTapsnum_w0 (v : HostValue) (s : State) : (State.writeTapsnum v s).w0 = s.w0 := rfl
@[simp] theorem writeTapsnum_w1 (v : HostValue) (s : State) : (State.writeTapsnum v s).w1 = s.w1 := rfl
@[simp] theorem writeTapsnum_wvalid (v : HostValue) (s : State) : (State.writeTapsnum v s).wvalid = false := rfl
@[simp] theorem writeTapsnum_abort (v : HostValue) (s : State) : (State.writeTapsnum v s).abort = s.abort := rfl
@[simp] theorem writeTapsnum_cause (v : HostValue) (s : State) : (State.writeTapsnum v s).cause = s.cause := rfl
@[simp] theorem writeTapsnum_mem (v : HostValue) (s : State) : (State.writeTapsnum v s).mem = s.mem := rfl
@[simp] theorem writeTapsnum_srcWritten (v : HostValue) (s : State) : (State.writeTapsnum v s).srcWritten = s.srcWritten := rfl
@[simp] theorem writeTapsnum_dstWritten (v : HostValue) (s : State) : (State.writeTapsnum v s).dstWritten = s.dstWritten := rfl
@[simp] theorem writeTapsnum_tapsWritten (v : HostValue) (s : State) : (State.writeTapsnum v s).tapsWritten = s.tapsWritten := rfl
@[simp] theorem writeTapsnum_freeNext (v : HostValue) (s : State) : (State.writeTapsnum v s).freeNext = s.freeNext := rfl
@[simp] theorem writeTapsnum_platform (v : HostValue) (s : State) : (State.writeTapsnum v s).platform = s.platform := rfl
@[simp] theorem writeTapsnum_program (v : HostValue) (s : State) : (State.writeTapsnum v s).program = s.program := rfl
@[simp] theorem writeTapsnum_index (v : HostValue) (s : State) : (State.writeTapsnum v s).index = s.index := rfl
@[simp] theorem writeTapsnum_returned (v : HostValue) (s : State) : (State.writeTapsnum v s).returned = s.returned := rfl

@[simp] theorem writeTap_src (k : Fin 12) (v : HostValue) (s : State) : (State.writeTap k v s).src = s.src := rfl
@[simp] theorem writeTap_dst (k : Fin 12) (v : HostValue) (s : State) : (State.writeTap k v s).dst = s.dst := rfl
@[simp] theorem writeTap_tapsnum (k : Fin 12) (v : HostValue) (s : State) : (State.writeTap k v s).tapsnum = s.tapsnum := rfl
@[simp] theorem writeTap_taps (k : Fin 12) (v : HostValue) (s : State) : (State.writeTap k v s).taps = s.taps.set k (v.setWidth 16) := rfl
@[simp] theorem writeTap_w0 (k : Fin 12) (v : HostValue) (s : State) : (State.writeTap k v s).w0 = s.w0 := rfl
@[simp] theorem writeTap_w1 (k : Fin 12) (v : HostValue) (s : State) : (State.writeTap k v s).w1 = s.w1 := rfl
@[simp] theorem writeTap_wvalid (k : Fin 12) (v : HostValue) (s : State) : (State.writeTap k v s).wvalid = false := rfl
@[simp] theorem writeTap_abort (k : Fin 12) (v : HostValue) (s : State) : (State.writeTap k v s).abort = s.abort := rfl
@[simp] theorem writeTap_cause (k : Fin 12) (v : HostValue) (s : State) : (State.writeTap k v s).cause = s.cause := rfl
@[simp] theorem writeTap_mem (k : Fin 12) (v : HostValue) (s : State) : (State.writeTap k v s).mem = s.mem := rfl
@[simp] theorem writeTap_srcWritten (k : Fin 12) (v : HostValue) (s : State) : (State.writeTap k v s).srcWritten = s.srcWritten := rfl
@[simp] theorem writeTap_dstWritten (k : Fin 12) (v : HostValue) (s : State) : (State.writeTap k v s).dstWritten = s.dstWritten := rfl
@[simp] theorem writeTap_tapsWritten (k : Fin 12) (v : HostValue) (s : State) : (State.writeTap k v s).tapsWritten = s.tapsWritten.set k true := rfl
@[simp] theorem writeTap_freeNext (k : Fin 12) (v : HostValue) (s : State) : (State.writeTap k v s).freeNext = s.freeNext := rfl
@[simp] theorem writeTap_platform (k : Fin 12) (v : HostValue) (s : State) : (State.writeTap k v s).platform = s.platform := rfl
@[simp] theorem writeTap_program (k : Fin 12) (v : HostValue) (s : State) : (State.writeTap k v s).program = s.program := rfl
@[simp] theorem writeTap_index (k : Fin 12) (v : HostValue) (s : State) : (State.writeTap k v s).index = s.index := rfl
@[simp] theorem writeTap_returned (k : Fin 12) (v : HostValue) (s : State) : (State.writeTap k v s).returned = s.returned := rfl

@[simp] theorem packed_src (s : State) : (State.packed s).src = s.src := rfl
@[simp] theorem packed_dst (s : State) : (State.packed s).dst = s.dst := rfl
@[simp] theorem packed_tapsnum (s : State) : (State.packed s).tapsnum = s.tapsnum := rfl
@[simp] theorem packed_taps (s : State) : (State.packed s).taps = s.taps := rfl
@[simp] theorem packed_w0 (s : State) : (State.packed s).w0 = window0 s.tapsnum s.taps := rfl
@[simp] theorem packed_w1 (s : State) : (State.packed s).w1 = window1 s.tapsnum s.taps := rfl
@[simp] theorem packed_wvalid (s : State) : (State.packed s).wvalid = true := rfl
@[simp] theorem packed_abort (s : State) : (State.packed s).abort = s.abort := rfl
@[simp] theorem packed_cause (s : State) : (State.packed s).cause = s.cause := rfl
@[simp] theorem packed_mem (s : State) : (State.packed s).mem = s.mem := rfl
@[simp] theorem packed_srcWritten (s : State) : (State.packed s).srcWritten = s.srcWritten := rfl
@[simp] theorem packed_dstWritten (s : State) : (State.packed s).dstWritten = s.dstWritten := rfl
@[simp] theorem packed_tapsWritten (s : State) : (State.packed s).tapsWritten = s.tapsWritten := rfl
@[simp] theorem packed_freeNext (s : State) : (State.packed s).freeNext = s.freeNext := rfl
@[simp] theorem packed_platform (s : State) : (State.packed s).platform = s.platform := rfl
@[simp] theorem packed_program (s : State) : (State.packed s).program = s.program := rfl
@[simp] theorem packed_index (s : State) : (State.packed s).index = s.index := rfl
@[simp] theorem packed_returned (s : State) : (State.packed s).returned = s.returned := rfl

@[simp] theorem returning_src (v : HostValue) (s : State) : (State.returning v s).src = s.src := rfl
@[simp] theorem returning_dst (v : HostValue) (s : State) : (State.returning v s).dst = s.dst := rfl
@[simp] theorem returning_tapsnum (v : HostValue) (s : State) : (State.returning v s).tapsnum = s.tapsnum := rfl
@[simp] theorem returning_taps (v : HostValue) (s : State) : (State.returning v s).taps = s.taps := rfl
@[simp] theorem returning_w0 (v : HostValue) (s : State) : (State.returning v s).w0 = s.w0 := rfl
@[simp] theorem returning_w1 (v : HostValue) (s : State) : (State.returning v s).w1 = s.w1 := rfl
@[simp] theorem returning_wvalid (v : HostValue) (s : State) : (State.returning v s).wvalid = s.wvalid := rfl
@[simp] theorem returning_abort (v : HostValue) (s : State) : (State.returning v s).abort = s.abort := rfl
@[simp] theorem returning_cause (v : HostValue) (s : State) : (State.returning v s).cause = s.cause := rfl
@[simp] theorem returning_mem (v : HostValue) (s : State) : (State.returning v s).mem = s.mem := rfl
@[simp] theorem returning_srcWritten (v : HostValue) (s : State) : (State.returning v s).srcWritten = s.srcWritten := rfl
@[simp] theorem returning_dstWritten (v : HostValue) (s : State) : (State.returning v s).dstWritten = s.dstWritten := rfl
@[simp] theorem returning_tapsWritten (v : HostValue) (s : State) : (State.returning v s).tapsWritten = s.tapsWritten := rfl
@[simp] theorem returning_freeNext (v : HostValue) (s : State) : (State.returning v s).freeNext = s.freeNext := rfl
@[simp] theorem returning_platform (v : HostValue) (s : State) : (State.returning v s).platform = s.platform := rfl
@[simp] theorem returning_program (v : HostValue) (s : State) : (State.returning v s).program = s.program := rfl
@[simp] theorem returning_index (v : HostValue) (s : State) : (State.returning v s).index = s.index := rfl
@[simp] theorem returning_returned (v : HostValue) (s : State) : (State.returning v s).returned = s.returned ++ [v] := rfl

@[simp] theorem drewFree_src (s : State) : (State.drewFree s).src = s.src := rfl
@[simp] theorem drewFree_dst (s : State) : (State.drewFree s).dst = s.dst := rfl
@[simp] theorem drewFree_tapsnum (s : State) : (State.drewFree s).tapsnum = s.tapsnum := rfl
@[simp] theorem drewFree_taps (s : State) : (State.drewFree s).taps = s.taps := rfl
@[simp] theorem drewFree_w0 (s : State) : (State.drewFree s).w0 = s.w0 := rfl
@[simp] theorem drewFree_w1 (s : State) : (State.drewFree s).w1 = s.w1 := rfl
@[simp] theorem drewFree_wvalid (s : State) : (State.drewFree s).wvalid = s.wvalid := rfl
@[simp] theorem drewFree_abort (s : State) : (State.drewFree s).abort = s.abort := rfl
@[simp] theorem drewFree_cause (s : State) : (State.drewFree s).cause = s.cause := rfl
@[simp] theorem drewFree_mem (s : State) : (State.drewFree s).mem = s.mem := rfl
@[simp] theorem drewFree_srcWritten (s : State) : (State.drewFree s).srcWritten = s.srcWritten := rfl
@[simp] theorem drewFree_dstWritten (s : State) : (State.drewFree s).dstWritten = s.dstWritten := rfl
@[simp] theorem drewFree_tapsWritten (s : State) : (State.drewFree s).tapsWritten = s.tapsWritten := rfl
@[simp] theorem drewFree_freeNext (s : State) : (State.drewFree s).freeNext = s.freeNext + 1 := rfl
@[simp] theorem drewFree_platform (s : State) : (State.drewFree s).platform = s.platform := rfl
@[simp] theorem drewFree_program (s : State) : (State.drewFree s).program = s.program := rfl
@[simp] theorem drewFree_index (s : State) : (State.drewFree s).index = s.index := rfl
@[simp] theorem drewFree_returned (s : State) : (State.drewFree s).returned = s.returned := rfl

@[simp] theorem advance_src (s : State) : (State.advance s).src = s.src := rfl
@[simp] theorem advance_dst (s : State) : (State.advance s).dst = s.dst := rfl
@[simp] theorem advance_tapsnum (s : State) : (State.advance s).tapsnum = s.tapsnum := rfl
@[simp] theorem advance_taps (s : State) : (State.advance s).taps = s.taps := rfl
@[simp] theorem advance_w0 (s : State) : (State.advance s).w0 = s.w0 := rfl
@[simp] theorem advance_w1 (s : State) : (State.advance s).w1 = s.w1 := rfl
@[simp] theorem advance_wvalid (s : State) : (State.advance s).wvalid = s.wvalid := rfl
@[simp] theorem advance_abort (s : State) : (State.advance s).abort = s.abort := rfl
@[simp] theorem advance_cause (s : State) : (State.advance s).cause = s.cause := rfl
@[simp] theorem advance_mem (s : State) : (State.advance s).mem = s.mem := rfl
@[simp] theorem advance_srcWritten (s : State) : (State.advance s).srcWritten = s.srcWritten := rfl
@[simp] theorem advance_dstWritten (s : State) : (State.advance s).dstWritten = s.dstWritten := rfl
@[simp] theorem advance_tapsWritten (s : State) : (State.advance s).tapsWritten = s.tapsWritten := rfl
@[simp] theorem advance_freeNext (s : State) : (State.advance s).freeNext = s.freeNext := rfl
@[simp] theorem advance_platform (s : State) : (State.advance s).platform = s.platform := rfl
@[simp] theorem advance_program (s : State) : (State.advance s).program = s.program := rfl
@[simp] theorem advance_index (s : State) : (State.advance s).index = s.index + 1 := rfl
@[simp] theorem advance_returned (s : State) : (State.advance s).returned = s.returned := rfl

@[simp] theorem withNextOp_src (op : HostOp) (s : State) : (State.withNextOp op s).src = s.src := rfl
@[simp] theorem withNextOp_dst (op : HostOp) (s : State) : (State.withNextOp op s).dst = s.dst := rfl
@[simp] theorem withNextOp_tapsnum (op : HostOp) (s : State) : (State.withNextOp op s).tapsnum = s.tapsnum := rfl
@[simp] theorem withNextOp_taps (op : HostOp) (s : State) : (State.withNextOp op s).taps = s.taps := rfl
@[simp] theorem withNextOp_w0 (op : HostOp) (s : State) : (State.withNextOp op s).w0 = s.w0 := rfl
@[simp] theorem withNextOp_w1 (op : HostOp) (s : State) : (State.withNextOp op s).w1 = s.w1 := rfl
@[simp] theorem withNextOp_wvalid (op : HostOp) (s : State) : (State.withNextOp op s).wvalid = s.wvalid := rfl
@[simp] theorem withNextOp_abort (op : HostOp) (s : State) : (State.withNextOp op s).abort = s.abort := rfl
@[simp] theorem withNextOp_cause (op : HostOp) (s : State) : (State.withNextOp op s).cause = s.cause := rfl
@[simp] theorem withNextOp_mem (op : HostOp) (s : State) : (State.withNextOp op s).mem = s.mem := rfl
@[simp] theorem withNextOp_srcWritten (op : HostOp) (s : State) : (State.withNextOp op s).srcWritten = s.srcWritten := rfl
@[simp] theorem withNextOp_dstWritten (op : HostOp) (s : State) : (State.withNextOp op s).dstWritten = s.dstWritten := rfl
@[simp] theorem withNextOp_tapsWritten (op : HostOp) (s : State) : (State.withNextOp op s).tapsWritten = s.tapsWritten := rfl
@[simp] theorem withNextOp_freeNext (op : HostOp) (s : State) : (State.withNextOp op s).freeNext = s.freeNext := rfl
@[simp] theorem withNextOp_platform (op : HostOp) (s : State) : (State.withNextOp op s).platform = s.platform := rfl
@[simp] theorem withNextOp_program (op : HostOp) (s : State) : (State.withNextOp op s).program = op :: s.program.drop s.index := rfl
@[simp] theorem withNextOp_index (op : HostOp) (s : State) : (State.withNextOp op s).index = 0 := rfl
@[simp] theorem withNextOp_returned (op : HostOp) (s : State) : (State.withNextOp op s).returned = s.returned := rfl

end Sys2Proof.Machine
end

