-- ==== Sys2Proof/Laws/VectorFilter.lean ====
section
/-! SUPPORT. Everything a tile and a block of `FIRV` can do (R122, R141). -/

namespace Sys2Proof.Machine

@[simp] theorem length_tilePixels (p0 p1 : List Byte) (w0 w1 : List Elem) : (tilePixels p0 p1 w0 w1).length = 4 := rfl

/-- The pixels of the tile at source address `s` of a memory. -/
def tileValue (ctx : TileContext) (m : Memory) (s : Nat) : List Byte :=
  tilePixels (Memory.bytesAt m (s - ctx.delta) 16) (Memory.bytesAt m (s - ctx.delta + 1) 16) ctx.w0 ctx.w1

@[simp] theorem length_tileValue (ctx : TileContext) (m : Memory) (s : Nat) : (tileValue ctx m s).length = 4 := rfl

/-- A tile depends on its 17 source bytes alone. -/
theorem tileValue_congr {ctx : TileContext} {m m' : Memory} {s : Nat}
    (h : ∀ j < 17, Memory.byteAt m (s - ctx.delta + j) = Memory.byteAt m' (s - ctx.delta + j)) :
    tileValue ctx m s = tileValue ctx m' s := by
  rw [tileValue, tileValue, bytesAt_congr fun j hj => h j (by omega), bytesAt_congr (m := m) fun j hj => ?_]
  have := h (j + 1) (by omega)
  rwa [show s - ctx.delta + (j + 1) = s - ctx.delta + 1 + j by omega] at this

theorem tile_ok {ctx : TileContext} {m : Memory} {s d : Nat}
    (hr : ∀ j < 17, Platform.canRead ctx.platform (s - ctx.delta + j) = true)
    (hw : ∀ i < 4, Platform.canWrite ctx.platform (d + i) = true) :
    tile ctx s d m = .ok (Memory.storeBytes m d (tileValue ctx m s)) := by
  have h0 : memRead ctx.platform m (s - ctx.delta) 16 = .ok (Memory.bytesAt m (s - ctx.delta) 16) :=
    memRead_ok_of_readable fun j hj => hr j (by omega)
  have h1 : memRead ctx.platform m (s - ctx.delta + 1) 16 = .ok (Memory.bytesAt m (s - ctx.delta + 1) 16) :=
    memRead_ok_of_readable fun j hj => by
      have := hr (j + 1) (by omega)
      rwa [show s - ctx.delta + (j + 1) = s - ctx.delta + 1 + j by omega] at this
  simp only [tile, h0, h1]
  exact memWrite_ok_of_writable (by simpa using hw)

/-- All a tile can answer. -/
theorem tile_cases (ctx : TileContext) (s d : Nat) (m : Memory) :
    (tile ctx s d m = .ok (Memory.storeBytes m d (tileValue ctx m s)) ∧
      (∀ j < 17, Platform.canRead ctx.platform (s - ctx.delta + j) = true) ∧
      ∀ i < 4, Platform.canWrite ctx.platform (d + i) = true) ∨
    (tile ctx s d m = .error .srcMargin ∧ ∃ j < 17, Platform.canRead ctx.platform (s - ctx.delta + j) = false) ∨
    (tile ctx s d m = .error .dstAccess ∧ (∀ j < 17, Platform.canRead ctx.platform (s - ctx.delta + j) = true) ∧
      ∃ i < 4, Platform.canWrite ctx.platform (d + i) = false) := by
  rcases memRead_cases ctx.platform m (s - ctx.delta) 16 with ⟨h0, hr0⟩ | ⟨h0, j, hj, hr⟩
  · rcases memRead_cases ctx.platform m (s - ctx.delta + 1) 16 with ⟨h1, hr1⟩ | ⟨h1, j, hj, hr⟩
    · have hr : ∀ j < 17, Platform.canRead ctx.platform (s - ctx.delta + j) = true := fun j hj => by
        by_cases h16 : j < 16
        · exact hr0 j h16
        · have := hr1 15 (by omega)
          rwa [show s - ctx.delta + j = s - ctx.delta + 1 + 15 by omega]
      rcases memWrite_cases ctx.platform m d (tileValue ctx m s) with ⟨h2, hw⟩ | ⟨h2, i, hi, hw⟩
      · exact .inl ⟨by simp only [tile, h0, h1]; exact h2, hr, by simpa using hw⟩
      · exact .inr (.inr ⟨by simp only [tile, h0, h1]; exact h2, hr, i, by simpa using hi, hw⟩)
    · refine .inr (.inl ⟨by simp only [tile, h0, h1], j + 1, by omega, ?_⟩)
      rwa [show s - ctx.delta + (j + 1) = s - ctx.delta + 1 + j by omega]
  · exact .inr (.inl ⟨by simp only [tile, h0], j, by omega, hr⟩)

/-- Two runs of tiles, one after the other. -/
theorem tiles_add (ctx : TileContext) (k n s d : Nat) (m : Memory) :
    tiles ctx (k + n) s d m =
      match tiles ctx k s d m with
      | .error c => .error c
      | .ok m' => tiles ctx n (s + 4 * k) (d + 4 * k) m' := by
  induction k generalizing s d m with
  | zero => simp [tiles]
  | succ k ih =>
    rw [show k + 1 + n = (k + n) + 1 by omega, tiles, tiles]
    cases tile ctx s d m with
    | error c => rfl
    | ok m' =>
      simp only [Config.tile]
      rw [ih, show s + 4 + 4 * k = s + 4 * (k + 1) by omega, show d + 4 + 4 * k = d + 4 * (k + 1) by omega]

/-- A run of tiles raises no cause but the two of a memory access. -/
theorem tiles_error {ctx : TileContext} {n s d : Nat} {m : Memory} {c : Cause} (h : tiles ctx n s d m = .error c) :
    c = .srcMargin ∨ c = .dstAccess := by
  induction n generalizing s d m with
  | zero => simp [tiles] at h
  | succ n ih =>
    rw [tiles] at h
    rcases tile_cases ctx s d m with ⟨h1, -⟩ | ⟨h1, -⟩ | ⟨h1, -⟩ <;> rw [h1] at h
    · exact ih h
    · cases h; exact .inl rfl
    · cases h; exact .inr rfl

/-- A run of tiles writes its output addresses alone and keeps the canonical form. -/
theorem tiles_frame {ctx : TileContext} {n s d : Nat} {m m' : Memory} (h : tiles ctx n s d m = .ok m') :
    (∀ a, a < d ∨ d + 4 * n ≤ a → Memory.lookup m' a = Memory.lookup m a) ∧ (Memory.wf m → Memory.wf m') ∧
    (∀ aw, d + 4 * n ≤ 2 ^ aw → Memory.within aw m → Memory.within aw m') := by
  induction n generalizing s d m with
  | zero => simp only [tiles, Except.ok.injEq] at h; subst h; exact ⟨fun _ _ => rfl, id, fun _ _ => id⟩
  | succ n ih =>
    rw [tiles] at h
    rcases tile_cases ctx s d m with ⟨h1, -⟩ | ⟨h1, -⟩ | ⟨h1, -⟩ <;> rw [h1] at h
    · obtain ⟨h2, h3, h4⟩ := ih h
      simp only [Config.tile] at h2 h4
      refine ⟨fun a ha => ?_, fun hm => h3 (wf_storeBytes _ hm _),
        fun aw ha hm => h4 aw (by omega) (within_storeBytes _ hm (by rw [length_tileValue]; omega))⟩
      rw [h2 a (by omega), lookup_storeBytes, if_neg (by rw [length_tileValue]; omega)]
    · cases h
    · cases h

/-- What a run of tiles computes when it may reach every byte and its output lies clear of its sources: each tile's pixels, of the
memory before the command. -/
theorem tiles_ok {ctx : TileContext} {n s d : Nat} {m : Memory} (hδ : ctx.delta ≤ s)
    (hr : ∀ j < 4 * n + 13, Platform.canRead ctx.platform (s - ctx.delta + j) = true)
    (hw : ∀ i < 4 * n, Platform.canWrite ctx.platform (d + i) = true)
    (hd : s - ctx.delta + (4 * n + 13) ≤ d ∨ d + 4 * n ≤ s - ctx.delta) :
    ∃ m', tiles ctx n s d m = .ok m' ∧
      ∀ q < n, ∀ i < 4, Memory.lookup m' (d + 4 * q + i) = (tileValue ctx m (s + 4 * q))[i]? := by
  induction n generalizing s d m with
  | zero => exact ⟨m, rfl, fun q hq => by omega⟩
  | succ n ih =>
    have h0 : tile ctx s d m = .ok (Memory.storeBytes m d (tileValue ctx m s)) :=
      tile_ok (fun j hj => hr j (by omega)) (fun i hi => hw i (by omega))
    obtain ⟨m', h1, h2⟩ := ih (s := s + 4) (d := d + 4) (m := Memory.storeBytes m d (tileValue ctx m s)) (by omega)
      (fun j hj => by
        have := hr (4 + j) (by omega); rwa [show s - ctx.delta + (4 + j) = s + 4 - ctx.delta + j by omega] at this)
      (fun i hi => by have := hw (4 + i) (by omega); rwa [show d + (4 + i) = d + 4 + i by omega] at this)
      (by omega)
    refine ⟨m', by rw [tiles, h0]; exact h1, fun q hq i hi => ?_⟩
    cases q with
    | zero =>
      rw [(tiles_frame h1).1 _ (by omega), lookup_storeBytes, if_pos (by rw [length_tileValue]; omega)]
      simp
    | succ q =>
      have key : tileValue ctx (Memory.storeBytes m d (tileValue ctx m s)) (s + 4 + 4 * q) =
          tileValue ctx m (s + 4 + 4 * q) :=
        tileValue_congr fun j hj =>
          byteAt_of_lookup (by rw [lookup_storeBytes, if_neg (by rw [length_tileValue]; omega)])
      rw [show d + 4 * (q + 1) + i = d + 4 + 4 * q + i by omega, h2 q (by omega) i hi, key,
        show s + 4 * (q + 1) = s + 4 + 4 * q by omega]

/-- A block raises no cause but the two of a memory access. -/
theorem block_error {ctx : TileContext} {level s d : Nat} {m : Memory} {c : Cause} (h : block ctx level s d m = .error c) :
    c = .srcMargin ∨ c = .dstAccess := by
  induction level generalizing s d m with
  | zero =>
    rw [block] at h
    rcases tile_cases ctx s d m with ⟨h1, -⟩ | ⟨h1, -⟩ | ⟨h1, -⟩ <;> rw [h1] at h <;> cases h <;> simp
  | succ level ih =>
    rw [block] at h
    cases hl : block ctx level s d m with
    | error c' => rw [hl] at h; cases h; exact ih hl
    | ok m1 => rw [hl] at h; exact ih h

/-- A block writes its output addresses alone and keeps the canonical form. -/
theorem block_frame {ctx : TileContext} {level s d : Nat} {m m' : Memory} (h : block ctx level s d m = .ok m') :
    (∀ a, a < d ∨ d + 4 * 2 ^ level ≤ a → Memory.lookup m' a = Memory.lookup m a) ∧ (Memory.wf m → Memory.wf m') ∧
    (∀ aw, d + 4 * 2 ^ level ≤ 2 ^ aw → Memory.within aw m → Memory.within aw m') := by
  induction level generalizing s d m m' with
  | zero =>
    rw [block] at h
    rcases tile_cases ctx s d m with ⟨h1, -⟩ | ⟨h1, -⟩ | ⟨h1, -⟩ <;> rw [h1] at h <;> cases h
    exact ⟨fun a ha => by rw [lookup_storeBytes, if_neg (by rw [length_tileValue]; omega)],
      fun hm => wf_storeBytes _ hm _, fun aw ha hm => within_storeBytes _ hm (by rw [length_tileValue]; omega)⟩
  | succ level ih =>
    rw [block] at h
    have h2 : 2 ^ (level + 1) = 2 ^ level + 2 ^ level := by rw [Nat.pow_succ]; omega
    cases hl : block ctx level s d m with
    | error c' => rw [hl] at h; cases h
    | ok m1 =>
      rw [hl] at h
      obtain ⟨f1, w1, b1⟩ := ih hl
      obtain ⟨f2, w2, b2⟩ := ih h
      simp only [Config.tile] at f2 b2
      exact ⟨fun a ha => by rw [f2 a (by omega), f1 a (by omega)], fun hm => w2 (w1 hm),
        fun aw ha hm => b2 aw (by omega) (b1 aw (by omega) hm)⟩

/-- The width a level stands for. -/
theorem blockLevel_width {width level : Nat} (h : blockLevel width = some level) : width = 4 * 2 ^ level := by
  unfold blockLevel at h
  split_ifs at h <;> cases h <;> omega

theorem blockLevel_none_iff (width : Nat) : blockLevel width = none ↔ width ∉ Config.widths := by
  unfold blockLevel
  split_ifs <;> simp_all [Config.widths]

end Sys2Proof.Machine
end

