-- ==== Sys2Proof/Laws/Exec.lean ====
section
/-! SUPPORT. Everything a command can do (one inversion lemma per meaning), and when nothing is refused. -/

namespace Sys2Proof.Machine

theorem legalTapsnum_iff (n : BitVec 4) : legalTapsnum n = true ↔ n = 10 ∨ n = 12 := by simp [legalTapsnum]

theorem raise_eq (c : Cause) (s : State) : raise c s = .next (State.aborted c s) := rfl

/-- All the end of a filter command can answer. -/
theorem finish_cases {width : Nat} {s t : State} {r : Except Cause Memory} (h : finish width s r = .next t) :
    (∃ m, r = .ok m ∧ t = State.withMemory m s) ∨
    (∃ c, r = .error c ∧ t = State.aborted c (State.outputUnspecified width s)) := by
  cases r with
  | ok m => cases h; exact .inl ⟨m, rfl, rfl⟩
  | error c => cases h; exact .inr ⟨c, rfl, rfl⟩

/-- `PACK`'s check raises `TAP_RANGE` and nothing else. -/
theorem packScan_cause {k : Nat} {l : List (Bool × Tap)} {c : Cause} (h : packScan k l = some (.inl c)) :
    c = .tapRange := by
  induction l generalizing k with
  | nil => simp [packScan] at h
  | cons x l ih =>
    obtain ⟨w, t⟩ := x
    rw [packScan] at h
    split_ifs at h
    · simp at h
    · simp only [Option.some.injEq, Sum.inl.injEq] at h; exact h.symm
    · exact ih h

/-- `PACK`'s check passes exactly when every tap it reads has been written and fits. -/
theorem packScan_none_iff (k : Nat) (l : List (Bool × Tap)) :
    packScan k l = none ↔ ∀ x ∈ l, x.1 = true ∧ tapFits x.2 = true := by
  induction l generalizing k with
  | nil => simp [packScan]
  | cons x l ih =>
    obtain ⟨w, t⟩ := x
    rw [packScan]
    split_ifs with h1 h2
    · simp_all
    · simp_all
    · simp_all

theorem mem_packOperands (s : State) (x : Bool × Tap) :
    x ∈ packOperands s ↔ ∃ k : Fin 12, k.val < s.tapsnum.toNat ∧ x = (s.tapsWritten[k], s.taps[k]) := by
  rw [packOperands, List.mem_iff_getElem?]
  constructor
  · rintro ⟨i, hi⟩
    rw [List.getElem?_take] at hi
    split_ifs at hi with hn
    rw [List.getElem?_zip_eq_some] at hi
    obtain ⟨h1, h2⟩ := hi
    have hlt : i < 12 := by
      by_contra hge
      rw [List.getElem?_eq_none (by simpa using hge)] at h1
      cases h1
    refine ⟨⟨i, hlt⟩, hn, ?_⟩
    rw [List.getElem?_eq_getElem (by simpa using hlt)] at h1 h2
    simp only [Option.some.injEq, Vector.getElem_toList] at h1 h2
    exact Prod.ext h1.symm h2.symm
  · rintro ⟨k, hk, rfl⟩
    refine ⟨k, ?_⟩
    rw [List.getElem?_take, if_pos hk, List.getElem?_zip_eq_some]
    have hlt := k.isLt
    constructor <;> rw [List.getElem?_eq_getElem (by simp)] <;> simp

/-- When `PACK` succeeds: its checks pass exactly under `PackReady`. -/
theorem packReady_iff (s : State) :
    PackReady s ↔ legalTapsnum s.tapsnum = true ∧ packScan 0 (packOperands s) = none := by
  rw [packScan_none_iff, legalTapsnum_iff]
  constructor
  · intro h
    refine ⟨h.count, fun x hx => ?_⟩
    obtain ⟨k, hk, rfl⟩ := (mem_packOperands s x).1 hx
    exact ⟨h.written k hk, by simpa [tapFits] using h.fit k hk⟩
  · rintro ⟨hn, hx⟩
    have key (k : Fin 12) (hk : k.val < s.tapsnum.toNat) :=
      hx (s.tapsWritten[k], s.taps[k]) ((mem_packOperands s _).2 ⟨k, hk, rfl⟩)
    exact ⟨hn, fun k hk => (key k hk).1, fun k hk => by simpa [tapFits] using (key k hk).2⟩

/-- All `PACK` can do when it answers a next state. -/
theorem execPack_cases {s t : State} (h : execPack s = .next t) :
    (legalTapsnum s.tapsnum = false ∧ t = State.aborted .badTapsnum s) ∨
    (legalTapsnum s.tapsnum = true ∧ t = State.aborted .tapRange s) ∨
    (legalTapsnum s.tapsnum = true ∧ packScan 0 (packOperands s) = none ∧ t = State.packed s) := by
  rw [execPack] at h
  cases hl : legalTapsnum s.tapsnum with
  | false => rw [hl] at h; cases h; exact .inl ⟨rfl, rfl⟩
  | true =>
    rw [hl] at h
    simp only [Bool.not_true, Bool.false_eq_true, if_false] at h
    split at h
    · rename_i c hc; cases h; rw [packScan_cause hc]; exact .inr (.inl ⟨rfl, rfl⟩)
    · cases h
    · rename_i hc; cases h; exact .inr (.inr ⟨rfl, hc, rfl⟩)

/-- All `FIRS` can do when it answers a next state. -/
theorem execFirs_cases {width : Nat} {s t : State} (h : execFirs width s = .next t) :
    (legalTapsnum s.tapsnum = false ∧ t = State.aborted .badTapsnum s) ∨
    (legalTapsnum s.tapsnum = true ∧ firsRefusal width s = none ∧
      ((∃ m, filterRow s.platform (State.activeTaps s) width s.src.toNat s.dst.toNat s.mem = .ok m ∧
          t = State.withMemory m s) ∨
       (∃ c, filterRow s.platform (State.activeTaps s) width s.src.toNat s.dst.toNat s.mem = .error c ∧
          (c = .srcMargin ∨ c = .dstAccess) ∧ t = State.aborted c (State.outputUnspecified width s)))) := by
  rw [execFirs] at h
  cases hl : legalTapsnum s.tapsnum with
  | false => rw [hl] at h; cases h; exact .inl ⟨rfl, rfl⟩
  | true =>
    rw [hl] at h
    simp only [Bool.not_true, Bool.false_eq_true, if_false] at h
    split at h
    · cases h
    · rename_i hr
      refine .inr ⟨rfl, hr, ?_⟩
      rcases finish_cases h with ⟨m, h1, h2⟩ | ⟨c, h1, h2⟩
      · exact .inl ⟨m, h1, h2⟩
      · exact .inr ⟨c, h1, filterRow_error h1, h2⟩

/-- All `FIRV` can do when it answers a next state. -/
theorem execFirv_cases {width : Nat} {s t : State} (h : execFirv width s = .next t) :
    (blockLevel width = none ∧ t = State.aborted .unsupportedWidth s) ∨
    (∃ level, blockLevel width = some level ∧ s.wvalid = false ∧ t = State.aborted .windowsInvalid s) ∨
    (∃ level, blockLevel width = some level ∧ s.wvalid = true ∧ firvRefusal width s = none ∧
      ((∃ m, block (tileContext s) level s.src.toNat s.dst.toNat s.mem = .ok m ∧ t = State.withMemory m s) ∨
       (∃ c, block (tileContext s) level s.src.toNat s.dst.toNat s.mem = .error c ∧
          (c = .srcMargin ∨ c = .dstAccess) ∧ t = State.aborted c (State.outputUnspecified width s)))) := by
  rw [execFirv] at h
  cases hl : blockLevel width with
  | none => rw [hl] at h; cases h; exact .inl ⟨rfl, rfl⟩
  | some level =>
    rw [hl] at h
    cases hv : s.wvalid with
    | false => rw [hv] at h; cases h; exact .inr (.inl ⟨level, rfl, rfl, rfl⟩)
    | true =>
      rw [hv] at h
      simp only [Bool.not_true, Bool.false_eq_true, if_false] at h
      split at h
      · cases h
      · rename_i hr
        refine .inr (.inr ⟨level, rfl, rfl, hr, ?_⟩)
        rcases finish_cases h with ⟨m, h1, h2⟩ | ⟨c, h1, h2⟩
        · exact .inl ⟨m, h1, h2⟩
        · exact .inr ⟨c, h1, block_error h1, h2⟩

/-! ### When nothing is refused -/

theorem unwrittenAddress_none_iff (s : State) : unwrittenAddress s = none ↔ AddressesWritten s := by
  rw [unwrittenAddress]
  constructor
  · intro h
    split_ifs at h
    exact ⟨by simp_all, by simp_all⟩
  · rintro ⟨h1, h2⟩; simp [h1, h2]

theorem firstUnwrittenTap_none_iff (n : Nat) (s : State) :
    firstUnwrittenTap n s = none ↔ ∀ k : Fin 12, k.val < n → s.tapsWritten[k] = true := by
  rw [firstUnwrittenTap, List.findIdx?_eq_none_iff]
  constructor
  · intro h k hk
    have := h s.tapsWritten[k] (by
      rw [List.mem_iff_getElem?]
      exact ⟨k, by rw [List.getElem?_take, if_pos hk]; simp⟩)
    simpa using this
  · intro h x hx
    rw [List.mem_iff_getElem?] at hx
    obtain ⟨i, hi⟩ := hx
    rw [List.getElem?_take] at hi
    split_ifs at hi with hn
    have hlt : i < 12 := by
      by_contra hge
      rw [List.getElem?_eq_none (by simpa using hge)] at hi
      cases hi
    have := h ⟨i, hlt⟩ hn
    rw [List.getElem?_eq_getElem (by simpa using hlt)] at hi
    simp only [Option.some.injEq, Vector.getElem_toList] at hi
    subst hi
    simpa using this

theorem inSpace_iff (aw a len : Nat) (hl : 0 < len) : Span.inSpace aw ⟨a, len⟩ = true ↔ a + len ≤ 2 ^ aw := by
  have hpow : ((2 ^ aw : Nat) : Int) = (2 : Int) ^ aw := by norm_cast
  have h0 : (len == 0) = false := by simp; omega
  simp only [Span.inSpace, h0, Bool.false_or, Bool.and_eq_true, decide_eq_true_eq]
  omega

theorem meets_iff (a len d width : Nat) (hl : 0 < len) (hw : 0 < width) :
    Span.meets ⟨a, len⟩ ⟨d, width⟩ = true ↔ a < d + width ∧ d < a + len := by
  simp only [Span.meets, Bool.and_eq_true, decide_eq_true_eq, bne_iff_ne]
  omega

/-- The footprint checks pass exactly when both footprints lie in memory and share no address (`a` the first address read). -/
theorem footprintRefusal_none_iff (p : Platform) (a len d width : Nat) (hl : 0 < len) (hw : 0 < width) :
    footprintRefusal p ⟨a, len⟩ ⟨d, width⟩ = none ↔ FootprintsPlaced p a len d width := by
  have h1 := inSpace_iff p.aw a len hl
  have h2 := inSpace_iff p.aw d width hw
  have h3 := meets_iff a len d width hl hw
  rw [footprintRefusal]
  cases e1 : Span.inSpace p.aw ⟨a, len⟩ <;> cases e2 : Span.inSpace p.aw ⟨d, width⟩ <;>
    cases e3 : Span.meets ⟨a, len⟩ ⟨d, width⟩ <;> rw [e1] at h1 <;> rw [e2] at h2 <;> rw [e3] at h3 <;>
    simp only [Bool.false_eq_true, false_iff, true_iff] at h1 h2 h3 <;> simp
  all_goals first
    | exact ⟨h1, h2, by omega⟩
    | exact fun h => by have := h.readsInside; have := h.writesInside; have := h.disjoint; omega

/-- `FIRS` with a width of at least 1 is refused nothing exactly when its operands are written and its footprints placed. -/
theorem firsRefusal_none_iff {width : Nat} {s : State} (hw : 0 < width) (hn : 0 < s.tapsnum.toNat) :
    firsRefusal width s = none ↔ AddressesWritten s ∧
      (∀ k : Fin 12, k.val < s.tapsnum.toNat → s.tapsWritten[k] = true) ∧
      FootprintsPlaced s.platform s.src.toNat (width + s.tapsnum.toNat - 1) s.dst.toNat width := by
  have h1 := unwrittenAddress_none_iff s
  have h2 := firstUnwrittenTap_none_iff s.tapsnum.toNat s
  have h3 := footprintRefusal_none_iff s.platform s.src.toNat (width + s.tapsnum.toNat - 1) s.dst.toNat width
    (by omega) hw
  rw [firsRefusal, if_neg (by omega), firsReads, if_neg (by omega), writes]
  cases e1 : unwrittenAddress s with
  | some n => rw [e1] at h1; simp at h1 ⊢; tauto
  | none =>
    cases e2 : firstUnwrittenTap s.tapsnum.toNat s with
    | some n => rw [e2] at h2; simp only [reduceCtorEq, false_iff] at h2 ⊢; tauto
    | none => rw [e1] at h1; rw [e2] at h2; simp only [true_iff] at h1 h2; rw [h3]; tauto

/-- `FIRV` likewise. -/
theorem firvRefusal_none_iff {width : Nat} {s : State} (hw : 0 < width) :
    firvRefusal width s = none ↔ AddressesWritten s ∧ delta s.tapsnum ≤ s.src.toNat ∧
      FootprintsPlaced s.platform (s.src.toNat - delta s.tapsnum) (width + 13) s.dst.toNat width := by
  have h1 := unwrittenAddress_none_iff s
  rw [firvRefusal, firvReads, writes]
  cases e1 : unwrittenAddress s with
  | some n => rw [e1] at h1; simp at h1 ⊢; tauto
  | none =>
    rw [e1] at h1
    simp only [true_iff] at h1
    by_cases hm : delta s.tapsnum ≤ s.src.toNat
    · have h3 := footprintRefusal_none_iff s.platform (s.src.toNat - delta s.tapsnum) (width + 13) s.dst.toNat width
        (by omega) hw
      rw [Nat.cast_sub hm] at h3
      simp only [h3]; tauto
    · have h4 : Span.inSpace s.platform.aw ⟨(s.src.toNat : Int) - delta s.tapsnum, width + 13⟩ = false := by
        have h0 : (width + 13 == 0) = false := by simp
        simp only [Span.inSpace, h0, Bool.false_or, Bool.and_eq_false_iff, decide_eq_false_iff_not]
        omega
      simp only [footprintRefusal, h4, Bool.false_and, Bool.not_false, if_true, reduceCtorEq, false_iff]
      tauto

end Sys2Proof.Machine
end

