-- ==== Sys2Proof/Laws/Host.lean ====
section
/-! SUPPORT. Everything a host operation and a step can do (R22, R24). -/

namespace Sys2Proof.Machine

theorem csrWrite_aborted {n : Nat} {v : HostValue} {s : State} (h : s.abort = true) : csrWrite n v s = .next s := by
  simp [csrWrite, h]

theorem csrWrite_live {n : Nat} {v : HostValue} {s : State} (h : s.abort = false) :
    csrWrite n v s = writeRegister n (truncTo (Platform.xw s.platform) v) s := by simp [csrWrite, h]

/-- All a register write can do with `ABORT = 0`. -/
theorem writeRegister_cases (n : Nat) (v : HostValue) (s : State) :
    (regOf n = some .cmd ∧ writeRegister n v s = issueCommand v s) ∨
    (regOf n = some .src ∧ writeRegister n v s = .next (State.writeSrc v s)) ∨
    (regOf n = some .dst ∧ writeRegister n v s = .next (State.writeDst v s)) ∨
    (regOf n = some .tapsnum ∧ writeRegister n v s = .next (State.writeTapsnum v s)) ∨
    (∃ k, regOf n = some (.tap k) ∧ writeRegister n v s = .next (State.writeTap k v s)) ∨
    writeRegister n v s = .next (State.aborted .illegalReg s) := by
  cases h : regOf n with
  | none => simp [writeRegister, h, raise_eq]
  | some r => cases r <;> simp [writeRegister, h, raise_eq]

/-- All the write of a command word can do. -/
theorem issueCommand_cases (v : HostValue) (s : State) :
    (∃ i, decode v = .ok i ∧ issueCommand v s = exec i s) ∨
    ((∃ e, decode v = .error e) ∧ issueCommand v s = .next (State.aborted .illegalCmd s)) := by
  cases h : decode v with
  | ok i => exact .inl ⟨i, rfl, by simp [issueCommand, h]⟩
  | error e => exact .inr ⟨⟨e, rfl⟩, by simp [issueCommand, h, raise_eq]⟩

/-- All a register read can do: it always answers a next state. -/
theorem csrRead_cases (n : Nat) (s : State) :
    (∃ r, regOf n = some r ∧ r ≠ .cmd ∧ csrRead n s = .next (readRegister r s)) ∨
    ((regOf n = none ∨ regOf n = some .cmd) ∧ csrRead n s = readIllegal s) := by
  cases h : regOf n with
  | none => exact .inr ⟨.inl rfl, by simp [csrRead, h]⟩
  | some r => cases r <;> simp [csrRead, h]

/-- All a step can do when it answers a next state. -/
theorem step_cases {s t : State} (h : step s = .next t) :
    (nextOp s = none ∧ t = s) ∨
    (∃ op u, nextOp s = some op ∧ perform op s = .next u ∧ t = State.advance u) := by
  rw [step] at h
  cases hn : nextOp s with
  | none => rw [hn] at h; cases h; exact .inl ⟨rfl, rfl⟩
  | some op =>
    rw [hn] at h
    refine .inr ⟨op, ?_⟩
    cases hp : perform op s with
    | next u => simp only [hp, advanceHost, Host.Outcome.next.injEq] at h; exact ⟨u, rfl, rfl, h.symm⟩
    | fault f => simp [hp, advanceHost] at h
    | refused r => simp [hp, advanceHost] at h

end Sys2Proof.Machine
end

