-- ==== Sys2Proof/Laws/Lanes.lean ====
section
/-! SUPPORT. Lane by lane: bytes of a load, positions of a packed window, lanes of the row vectors, and the terms of a scalar sum. -/

namespace Sys2Proof.Machine

theorem getD_bytesAt (m : Memory) {n a j : Nat} (h : j < n) :
    (Memory.bytesAt m a n).getD j 0 = Memory.byteAt m (a + j) := by
  rw [List.getD_eq_getElem?_getD, getElem?_bytesAt, if_pos h]; rfl

theorem getD_window (offset n : Nat) (taps : Vector Tap 12) {j : Nat} (h : j < 16) :
    (window offset n taps).toList.getD j 0 = windowElem offset n taps j := by
  show ((List.range 16).map (windowElem offset n taps)).getD j 0 = _
  rw [List.getD_eq_getElem?_getD, List.getElem?_map, List.getElem?_range h]; rfl

/-- R94: `W1` is `W0` moved by two positions. -/
theorem getD_window1_add_two (n : BitVec 4) (taps : Vector Tap 12) {j : Nat} (h : j < 14) :
    (window1 n taps).toList.getD (j + 2) 0 = (window0 n taps).toList.getD j 0 := by
  rw [window1, window0, getD_window _ _ _ (by omega), getD_window _ _ _ (by omega), windowElem, windowElem]
  simp only [Config.winShift]
  by_cases h : delta n ≤ j ∧ j < delta n + n.toNat
  · rw [if_pos h, if_pos (by omega), show j + 2 - (delta n + 2) = j - delta n by omega]
  · rw [if_neg h, if_neg (by omega)]

/-- A `PACK` whose checks pass leaves windows that match the taps (R30). -/
theorem windowsMatch_packed {s : State} (hl : legalTapsnum s.tapsnum = true)
    (h : packScan 0 (packOperands s) = none) : WindowsMatch (State.packed s) := by
  rw [packScan_none_iff] at h
  have key (k : Fin 12) (hk : k.val < s.tapsnum.toNat) :=
    h (s.tapsWritten[k], s.taps[k]) ((mem_packOperands s _).2 ⟨k, hk, rfl⟩)
  exact ⟨(legalTapsnum_iff _).1 hl, fun k hk => (key k hk).2, fun k hk => (key k hk).1, rfl, rfl⟩

theorem length_madd (p : List Byte) (w : List Elem) (hp : p.length = w.length) : (madd p w).length = p.length / 2 := by
  induction p, w using madd.induct with
  | case1 p0 p1 ps c0 c1 cs ih =>
    rw [madd]
    simp at hp ⊢
    rw [ih hp]
    omega
  | case2 p w h =>
    match p, w with
    | [], _ => simp [madd]
    | [_], _ => simp [madd]
    | _ :: _ :: _, [] => simp at hp
    | _ :: _ :: _, [_] => simp at hp
    | _ :: _ :: _, _ :: _ :: _ => exact (h _ _ _ _ _ _ rfl rfl).elim

theorem getD_laneShift (v : List Int) (m : Nat) (h : m + 1 < v.length) :
    (laneShift v).getD m 0 = v.getD (m + 1) 0 := by
  match v with
  | [] => simp at h
  | _ :: v =>
    simp only [laneShift, List.getD_eq_getElem?_getD, List.getElem?_cons_succ]
    rw [List.getElem?_append_left (by simpa using h)]

/-- The scalar dot product as a sum over the taps. -/
theorem dotValue_eq_sum (m : Memory) (ts : List Int) (a : Nat) :
    dotValue m ts a =
      ((List.range ts.length).map (fun k => ((Memory.byteAt m (a + k)).toNat : Int) * ts.getD k 0)).sum := by
  induction ts generalizing a with
  | nil => rfl
  | cons t ts ih =>
    rw [dotValue, ih, List.length_cons, List.range_succ_eq_map, List.map_cons, List.sum_cons, List.map_map]
    simp [Function.comp_def, Nat.add_comm, Nat.add_left_comm]

theorem length_activeTaps {s : State} (h : s.tapsnum = 10 ∨ s.tapsnum = 12) :
    (State.activeTaps s).length = s.tapsnum.toNat := by
  rcases h with h | h <;> simp [State.activeTaps, h]

/-- R101's sum over the taps in use, term by term. -/
theorem dotValue_activeTaps {s : State} (h : s.tapsnum = 10 ∨ s.tapsnum = 12) (m : Memory) (a : Nat) :
    dotValue m (State.activeTaps s) a =
      ((List.range s.tapsnum.toNat).map
        (fun k => ((Memory.byteAt m (a + k)).toNat : Int) * (s.taps[k]?.getD 0).toInt)).sum := by
  rw [dotValue_eq_sum, length_activeTaps h]
  congr 1
  refine List.map_congr_left fun k hk => ?_
  rw [List.mem_range] at hk
  have h12 : k < 12 := by rcases h with h | h <;> rw [h] at hk <;> simp at hk <;> omega
  rw [State.activeTaps, List.getD_eq_getElem?_getD, List.getElem?_map, List.getElem?_take, if_pos hk]
  simp [h12]

end Sys2Proof.Machine
end

