-- ==== Sys2Proof/Laws/PerInstr.lean ====
section
/-! SUPPORT. The bits of a command word, and facts about every command as syntax, one lemma per constructor of `Instr`. -/

namespace Sys2Proof.Laws

/-- R71: where each field of format `C` stands. -/
theorem getElem_formatC (rsv : BitVec 8) (width : BitVec 16) (op : BitVec 8) (j : Nat) (hj : j < 32) :
    (formatC rsv width op)[j] =
      if h : j < 8 then op[j] else if h' : j < 24 then width[j - 8] else rsv[j - 24] := by
  show (rsv ++ width ++ op : BitVec (8 + 16 + 8))[j] = _
  rw [BitVec.getElem_append]
  split_ifs with h h'
  · rfl
  · rw [BitVec.getElem_append, dif_pos (by omega)]
  · rw [BitVec.getElem_append, dif_neg (by omega)]; congr 1

/-- R72: the encoding of a command selects the command's own row of the opcode table. -/
def SelectsOwnRow.Statement (i : Instr) : Prop := (rowOf i).selects (encode i) = true

theorem SelectsOwnRow.pack : SelectsOwnRow.Statement .pack := by
  show (rowOf .pack).selects (encode .pack) = true
  decide

theorem SelectsOwnRow.firs (width : Nat) : SelectsOwnRow.Statement (.firs width) := by
  simp only [SelectsOwnRow.Statement, OpcodeRow.selects, rowOf, rowFirs, encode, opcodeOf, beq_iff_eq]
  apply BitVec.eq_of_getElem_eq
  intro j hj
  rw [BitVec.getElem_and, getElem_formatC]
  interval_cases j <;> simp

theorem SelectsOwnRow.firv (width : Nat) : SelectsOwnRow.Statement (.firv width) := by
  simp only [SelectsOwnRow.Statement, OpcodeRow.selects, rowOf, rowFirv, encode, opcodeOf, beq_iff_eq]
  apply BitVec.eq_of_getElem_eq
  intro j hj
  rw [BitVec.getElem_and, getElem_formatC]
  interval_cases j <;> simp

end Sys2Proof.Laws
end

