-- ==== Sys2Proof/Machine/TestEnvironment.lean ====
section
/-! DEFINITION. The host's side, not the block's: the assembler of R78 and R79, and what the spec records of the source's harness
(spec/44_host_environment.md R151 to R156). -/

namespace Sys2Proof.Machine

/-! ### Assembler (R78, R79): each line a host operation -/

/-- The value of a `wr` line as the interface carries it. R78: "a negative value `v` for a 16-bit register stands for
`trunc_16(v)`". DESIGN CHOICE (log entry 21): R78 says nothing of a negative value for a register that is not 16 bits wide; here
it is taken modulo `2^64`, so that a register of `N` bits keeps `trunc_N(v)`. -/
def asmValue (r : Reg) (v : Int) : HostValue :=
  match r with
  | .tap _ => if v < 0 then (BitVec.ofInt 16 v).setWidth 64 else BitVec.ofInt 64 v
  | .cmd | .status | .src | .dst | .tapsnum | .w0 _ | .w1 _ => BitVec.ofInt 64 v

/-- R78 `wr <reg>, <value>`. -/
def asmWr (r : Reg) (v : Int) : HostOp := .csrWrite (regNumber r) (asmValue r v)

/-- R78 `rd <reg>`. -/
def asmRd (r : Reg) : HostOp := .csrRead (regNumber r)

/-- R78 `pack`, `firs <width>`, `firv <width>`: a write of the command word to `CMD`. -/
def asmCommand (i : Instr) : HostOp := .csrWrite (regNumber .cmd) (commandValue (encode i))

/-- The writes of consecutive taps, from `TAP[k]` on. -/
def asmTaps : Nat → List Int → List HostOp
  | _, [] => []
  | k, c :: cs => asmWr (.tap (Fin.ofNat 12 k)) c :: asmTaps (k + 1) cs

/-- R79 `taps12 c0, ..., c11` and `taps10 c0, ..., c9`: the tap count, then the taps in order. -/
def asmTapSet (coefficients : List Int) : List HostOp :=
  asmWr .tapsnum coefficients.length :: asmTaps 0 coefficients

/-- R79 `bufs <s>, <d>`. -/
def asmBufs (s d : Nat) : List HostOp := [asmWr .src s, asmWr .dst d]

/-! ### The source's harness -/

/-- R156: filtering a matrix of 8 rows, one row command per row, with stride = width (R155). -/
def filterMatrix (command : Instr) (width sourceBase destBase : Nat) : List HostOp :=
  (List.range 8).flatMap
    (fun r => asmBufs (sourceBase + r * width) (destBase + r * width) ++ [asmCommand command])

/-- R151 `clip`, which the source does not define (N3). DESIGN CHOICE (log entry 22): a clamp to 0..255, which R151 notes is the
identity on the values 0..254 it is given. -/
def clip (v : Int) : Int := clamp v Config.pixelMin Config.pixelMax

/-- R151 PixelSource: `clip(next_random() % 255)`, row-major; the generator is an open parameter (R152, log entry 17). -/
def pixelSource (seed rows width : Nat) : List Byte :=
  (List.range (rows * width)).map (fun p => byteOf (clip (Config.nextRandom seed p % 255 : Nat)))

/-- R153: what the Verifier reports of the first differing byte: "the column index and both values". -/
structure Mismatch where
  column : Nat
  first : Byte
  second : Byte
  deriving DecidableEq, Repr

/-- R153 "element-wise in row-major order" from a row-major position on, for rows of `width` bytes (R155): the column is the position
within the row. It stops at the first difference. The matrices of a comparison have one shape. -/
def firstMismatch (width : Nat) : (position : Nat) → List Byte → List Byte → Option Mismatch
  | p, a :: as, b :: bs => if a = b then firstMismatch width (p + 1) as bs else some ⟨p % width, a, b⟩
  | _, [], _ => none
  | _, _ :: _, [] => none

/-- R153 Verifier, on two matrices of `rows` rows of `width` bytes at two base addresses (R155: stride = width): the first mismatch;
`none` is the absence of a diagnostic, "treat "no message" as pass". -/
def verifier (m : Memory) (rows width base base' : Nat) : Option Mismatch :=
  firstMismatch width 0 (Memory.bytesAt m base (rows * width)) (Memory.bytesAt m base' (rows * width))

end Sys2Proof.Machine
end

