-- ==== Sys2Proof/Tests/Slice0.lean ====
section
/-! SUPPORT. Tests: expected values from spec/95_test_vectors.md (the vector is named) and from the rules' own examples; then one
witness for the hypotheses of each statement. -/

namespace Sys2Proof.Tests

open Sys2Proof Sys2Proof.Machine

/-! ### Helpers -/

/-- A host's configured block: taps written (those of the list), both addresses written, bytes of memory from `base` on. -/
def configured (coefficients : List Int) (s d base : Nat) (bytes : List Byte) : State :=
  { State.reset with
    tapsnum := BitVec.ofNat 4 coefficients.length
    taps := Vector.ofFn fun k => BitVec.ofInt 16 (coefficients.getD k.val 0)
    tapsWritten := Vector.ofFn fun k => decide (k.val < coefficients.length)
    src := BitVec.ofNat 64 s
    srcWritten := true
    dst := BitVec.ofNat 64 d
    dstWritten := true
    mem := Memory.storeBytes [] base bytes }

/-- The next state an answer gives, or the state given. -/
def nextOr (s : State) : Answer → State
  | .next t => t
  | .fault _ => s
  | .refused _ => s

/-- The same block after `PACK`. -/
def packedBlock (coefficients : List Int) (s d base : Nat) (bytes : List Byte) : State :=
  State.packed (configured coefficients s d base bytes)

/-- The four bytes from an address on. -/
def fourBytes (s : State) (a : Nat) : List Byte := Memory.bytesAt s.mem a 4

def tapsA12 : List Int := [0, 1, -2, 3, -7, 127, 8, -4, 2, -1, 1, 0]
def tapsC12 : List Int := [0, 0, 0, 0, -40, 104, 104, -40, 0, 0, 0, 0]
def tapsE12 : List Int := [0, 0, 0, 0, 127, 127, -63, -63, 0, 0, 0, 0]
def tapsF12 : List Int := [0, 0, 0, 0, 64, 64, 64, -64, 0, 0, 0, 0]
def tapsB10 : List Int := [1, -3, 7, -16, 100, 50, -15, 6, -3, 1]
def tapsU12 : List Int := [0, 0, 0, 0, 0, 128, 0, 0, 0, 0, 0, 0]
def bytesA : List Byte := [12, 200, 45, 255, 0, 97, 180, 33, 64, 128, 250, 7, 19, 211, 99, 160, 5]

/-- T12a on byte string A, read at 0x1000, output at 0x2000. -/
def blockA : State := packedBlock tapsA12 0x1000 0x2000 0x1000 bytesA
/-- T10b on byte string A, read at 0x1001. -/
def blockB10 : State := packedBlock tapsB10 0x1001 0x2000 0x1000 bytesA

/-! ### Well-formedness: ill-formed terms are refused by the check (R71, R73) -/

theorem test_firs_width_over_16_bits_ill_formed : ¬ (Instr.firs 65536).WellFormed := by decide
theorem test_firv_width_over_16_bits_ill_formed : ¬ (Instr.firv 65536).WellFormed := by decide
theorem test_widest_firs_well_formed : (Instr.firs 65535).WellFormed := by decide

/-! ### Decoding: words written out bit by bit from R71's layout, `rsv` (8), `width` (16), `op` (8) -/

theorem test_decode_pack : decode 0b00000000000000000000000000000001#64 = .ok .pack := by decide
theorem test_decode_firs : decode 0b00000000000000000000010000000010#64 = .ok (.firs 4) := by decide
theorem test_decode_firv : decode 0b00000000000000000100000000000011#64 = .ok (.firv 64) := by decide
theorem test_decode_rejects_zero_word : decode 0x00000000#64 = .error .noSuchOpcode := by decide
theorem test_decode_rejects_reserved : decode 0x01000402#64 = .error .reservedBits := by decide
theorem test_decode_rejects_pack_width : decode 0x00000101#64 = .error .packWidth := by decide
theorem test_decode_rejects_bits_above_31 : decode 0x100000402#64 = .error .bitsAbove31 := by decide
theorem test_decode_table_word : decodeTableWord 32 0x00000803 = some (.firv 8) := by decide

/-! ### PACK (V12, V13) -/

theorem test_pack_12_taps :
    ((nextOr State.reset (exec .pack (configured tapsA12 0 0 0 []))).w1.toList.map BitVec.toInt) =
      [0, 0, 0, 1, -2, 3, -7, 127, 8, -4, 2, -1, 1, 0, 0, 0] := by decide
theorem test_pack_10_taps :
    ((nextOr State.reset (exec .pack (configured tapsB10 0 0 0 []))).w0.toList.map BitVec.toInt) =
      [0, 1, -3, 7, -16, 100, 50, -15, 6, -3, 1, 0, 0, 0, 0, 0] := by decide

/-! ### FIRS (V25, V29a) -/

theorem test_firs_four_pixels : fourBytes (nextOr State.reset (exec (.firs 4) blockA)) 0x2000 = [115, 170, 31, 66] := by decide
theorem test_firs_clamps_both_ways :
    fourBytes (nextOr State.reset (exec (.firs 4) (configured tapsC12 0x1000 0x2000 0x1000
      [0, 0, 0, 0, 0, 255, 255, 0, 0, 0, 0, 0, 0, 0, 0]))) 0x2000 = [255, 128, 0, 0] := by decide

/-! ### FIRV (V30, V36) and the lane primitives (V20 to V24, V37) -/

theorem test_firv_ten_taps : fourBytes (nextOr State.reset (exec (.firv 4) blockB10)) 0x2000 = [159, 128, 32, 76] := by decide
theorem test_firv_pair_sum_at_limit :
    fourBytes (nextOr State.reset (exec (.firv 4) (packedBlock tapsF12 0x1000 0x2000 0x1000
      [255, 255, 255, 255, 255, 255, 255, 0, 255, 255, 255, 255, 255, 255, 255, 255, 255]))) 0x2000 =
      [255, 128, 128, 128] := by decide
theorem test_madd_saturates : madd [255, 255, 255, 255] [127, 127, -128, -128] = [32767, -32768] := by decide
theorem test_lane_shift_drops_lane_zero : laneShift [9, 1, 2, 3, 4, 5, 6, 7] = [1, 2, 3, 4, 5, 6, 7, 0] := by decide
theorem test_adds_not_associative :
    adds (adds 500 32640) (-16320) = 16447 ∧ adds (adds 500 (-16320)) 32640 = 16820 := by decide
theorem test_round_hi_negative_tie : roundHi (-192) 256 = -1 ∧ roundHi (-193) 256 = -2 ∧ roundHi 32767 256 = 256 := by decide
theorem test_divergence_outside_pack_safe :
    tilePixels (List.replicate 16 255) (List.replicate 16 255) (packedBlock tapsE12 0 0 0 []).w0.toList
      (packedBlock tapsE12 0 0 0 []).w1.toList = [5, 5, 5, 5] := by decide
theorem test_pack_safe : packSafe 12 blockA.taps = true ∧ packSafe 12 (configured tapsE12 0 0 0 []).taps = false := by decide

/-! ### Register file and aborts (V3, V4, V9, V41, V44, V48, V49, V29d) -/

theorem test_write_tap4_minus_seven :
    ((nextOr State.reset (csrWrite 0x14 0x0000FFF9#64 blockA)).taps[4]).toInt = -7 ∧
    (nextOr State.reset (csrWrite 0x14 0x0000FFF9#64 blockA)).wvalid = false := by decide
theorem test_tapsnum_keeps_low_four_bits : (nextOr State.reset (csrWrite 4 26#64 blockA)).tapsnum = 10 := by decide
theorem test_write_to_status_aborts : statusWord (nextOr State.reset (csrWrite 1 0#64 State.reset)) = 0x81 := by decide
theorem test_unsupported_width_status : statusWord (nextOr State.reset (csrWrite 0 0x00000C03#64 blockA)) = 0x13 := by decide
theorem test_source_margin_status :
    statusWord (nextOr State.reset (exec (.firs 4)
      { blockA with wvalid := false, platform := { blockA.platform with readable := [⟨0x1000, 14⟩] } })) = 0x21 := by decide
theorem test_firv_below_address_zero_refused :
    exec (.firv 4) (packedBlock tapsB10 0 0x2000 0 bytesA) = .refused .footprintWraps := by rfl
theorem test_output_in_source_refused :
    exec (.firv 4) (packedBlock tapsA12 0x1000 0x1008 0x1000 bytesA) = .refused .footprintsIntersect := by rfl

/-! ### Step: a command as the very first step after reset (V29d), and idling -/

theorem test_first_command_after_reset :
    statusWord (nextOr State.reset (step (State.withFetchWord State.reset 32 0x00000402))) = 0x51 := by decide
theorem test_no_program_idles : step State.reset = .next State.reset := by rfl

/-! ### Assembler and harness (R78, R153) -/

theorem test_assembler_tap : asmWr (.tap 4) (-7) = .csrWrite 0x14 0x0000FFF9#64 := by decide
theorem test_assembler_firv : asmCommand (.firv 8) = .csrWrite 0 0x00000803#64 := by decide
theorem test_assembler_keeps_low_bits_of_wide_tap : asmWr (.tap 0) 0x1FFFF = .csrWrite 0x10 0x1FFFF#64 := by decide
theorem test_verifier_stops_at_first : firstMismatch 3 0 [1, 2, 3] [1, 5, 9] = some ⟨1, 2, 5⟩ := by decide
theorem test_verifier_reports_the_column_of_a_later_row :
    verifier (Memory.storeBytes [] 0 [1, 2, 3, 4, 5, 6, 1, 2, 3, 4, 9, 7]) 2 3 0 6 = some ⟨1, 5, 9⟩ := by decide

end Sys2Proof.Tests
end

