-- ==== Sys2Proof/Tests/Witnesses.lean ====
section
/-! SUPPORT. For every statement with hypotheses, a concrete state and operands that meet all of them together; one for each clause,
at a boundary value of its range. -/

namespace Sys2Proof.Tests

open Sys2Proof Sys2Proof.Machine

/-! ### The configured blocks meet the premises -/

theorem blockA_firsReady : FirsReady 4 blockA where
  count := by decide
  addresses := ⟨rfl, rfl⟩
  written := by decide
  placed := ⟨by decide, by decide, by decide⟩
  lent := ⟨by decide, by decide⟩

theorem blockA_firvReady : FirvReady 4 blockA where
  supported := by decide
  valid := rfl
  addresses := ⟨rfl, rfl⟩
  margin := by decide
  placed := ⟨by decide, by decide, by decide⟩
  lent := ⟨by decide, by decide⟩

theorem blockA_firvReady_eight : FirvReady 8 blockA where
  supported := by decide
  valid := rfl
  addresses := ⟨rfl, rfl⟩
  margin := by decide
  placed := ⟨by decide, by decide, by decide⟩
  lent := ⟨by decide, by decide⟩

theorem blockB10_firvReady : FirvReady 4 blockB10 where
  supported := by decide
  valid := rfl
  addresses := ⟨rfl, rfl⟩
  margin := by decide
  placed := ⟨by decide, by decide, by decide⟩
  lent := ⟨by decide, by decide⟩

theorem blockA_windowsMatch : WindowsMatch blockA where
  count := by decide
  fit := by decide
  written := by decide
  first := rfl
  second := rfl

theorem blockA_inv : State.Inv blockA where
  addressWidth := by decide
  memCanonical := by decide
  memWithin := by decide
  srcWithin := by decide
  dstWithin := by decide
  causeWhileAborted := by decide
  causeLegal := by decide
  windows := fun _ => blockA_windowsMatch

/-- T12e, which is not `PackSafe`, on zero pixels: an exact input. -/
def blockE : State := packedBlock tapsE12 0x1000 0x2000 0x1000 (List.replicate 17 0)

theorem blockE_firvReady : FirvReady 4 blockE where
  supported := by decide
  valid := rfl
  addresses := ⟨rfl, rfl⟩
  margin := by decide
  placed := ⟨by decide, by decide, by decide⟩
  lent := ⟨by decide, by decide⟩

theorem blockE_inv : State.Inv blockE where
  addressWidth := by decide
  memCanonical := by decide
  memWithin := by decide
  srcWithin := by decide
  dstWithin := by decide
  causeWhileAborted := by decide
  causeLegal := by decide
  windows := fun _ => { count := by decide, fit := by decide, written := by decide, first := rfl, second := rfl }

/-- `blockA` after the abort of V41. -/
def abortedA : State := State.aborted .unsupportedWidth blockA

/-- `blockA` with the host about to perform one operation. -/
def aboutTo (op : HostOp) : State := State.withNextOp op blockA

/-- `blockA` on a platform that lends fewer bytes (V44, V45). -/
def lending (readable writable : List Region) : State :=
  { blockA with platform := { blockA.platform with readable := readable, writable := writable } }

/-! ### Command words -/

theorem witness_DecodeOfEncodeIsIdentity : (Instr.firs 65535).WellFormed ∧ (Instr.firv 0).WellFormed ∧ Instr.pack.WellFormed := by decide
theorem witness_AcceptedWordIsTheEncoding : decode 0x00FFFF02#64 = .ok (.firs 65535) := by decide
theorem witness_OpcodeTableRowsAreDisjointAndDecoded :
    rowPack.selects 1#32 = true ∧ rowFirs.selects 0x00FFFF02#32 = true ∧ rowFirv.selects 3#32 = true ∧
    ∀ r ∈ opcodeTable, r.selects 0x00000101#32 = false := by decide
theorem witness_IllegalCommandWordsAbort :
    blockA.abort = false ∧ (0x01000402#64 : HostValue).toNat < 2 ^ max blockA.platform.aw 32 ∧
    (0x01000402#64 : HostValue).toNat / 2 ^ 24 % 256 ≠ 0 ∧ (0x00000101#64 : HostValue).toNat / 2 ^ 8 % 65536 ≠ 0 := by decide
theorem witness_IllegalCommandWordsAbort_above_31 :
    (0x100000002#64 : HostValue).toNat < 2 ^ max ({ blockA.platform with aw := 33 } : Platform).aw 32 ∧
    (0x100000002#64 : HostValue).toNat / 2 ^ 32 ≠ 0 := by decide
theorem witness_IllegalCommandWordsAbort_legal :
    ¬ ((0x00FFFF03#64 : HostValue).toNat % 256 = 0 ∨ 4 ≤ (0x00FFFF03#64 : HostValue).toNat % 256 ∨
      (0x00FFFF03#64 : HostValue).toNat / 2 ^ 24 % 256 ≠ 0 ∨
      ((0x00FFFF03#64 : HostValue).toNat % 256 = 1 ∧ (0x00FFFF03#64 : HostValue).toNat / 2 ^ 8 % 65536 ≠ 0) ∨
      (0x00FFFF03#64 : HostValue).toNat / 2 ^ 32 ≠ 0) ∧
    (∃ t, exec (.firv 65535) blockA = .next t) ∧ blockA.cause ≠ 4 := ⟨by decide, ⟨_, rfl⟩, by decide⟩
theorem witness_FirvAcceptsFiveWidthsOnly :
    (0 : Nat) < 65536 ∧ 0 ∉ [4, 8, 16, 32, 64] ∧ 65535 ∉ [4, 8, 16, 32, 64] ∧ 65 ∉ [4, 8, 16, 32, 64] ∧
    64 ∈ [4, 8, 16, 32, 64] ∧ blockA.abort = false ∧ blockA.cause = 0 ∧
    ∃ t, exec (.firv 4) blockA = .next t := ⟨by decide, by decide, by decide, by decide, by decide, rfl, rfl, _, rfl⟩

/-! ### Host operations -/

theorem witness_ConfigurationWritesTruncate :
    blockA.platform.aw ≤ 64 ∧ (0x1FFFF#64 : HostValue).toNat < 2 ^ max blockA.platform.aw 32 ∧ blockA.abort = false ∧
    abortedA.abort = true ∧ abortedA.platform.aw ≤ 64 := by decide
theorem witness_IllegalRegisterAccessAborts : blockA.abort = false ∧ regOf 5 = none ∧ regOf 31 = none ∧ regOf 64 = none := by decide
theorem witness_ReadsReturnTheRegisterPattern :
    blockA.srcWritten = true ∧ blockA.dstWritten = true ∧ blockA.tapsWritten[11] = true ∧ blockA.wvalid = true := by decide
theorem witness_ReadAfterWriteReturnsTheTruncatedValue :
    blockA.abort = false ∧ blockA.platform.aw ≤ 64 ∧ (26#64 : HostValue).toNat < 2 ^ max blockA.platform.aw 32 := by decide
theorem witness_AbortedBlockIgnoresWritesAndAnswersReads :
    abortedA.abort = true ∧ (31 : Nat) ≤ 31 ∧ unspecified abortedA (.tap 11) = false ∧
    unspecified (State.aborted .illegalReg State.reset) (.tap 11) = true ∧
    ∃ t, perform (.csrWrite 2 0x1234#64) abortedA = .next t := ⟨rfl, by decide, by decide, by decide, _, rfl⟩
theorem witness_HostMemoryAccess :
    2 ^ 32 - 1 + [(7 : Byte)].length ≤ 2 ^ blockA.platform.aw ∧ 2 ^ blockA.platform.aw < 2 ^ 32 + [(7 : Byte)].length := by decide

/-! ### Memory accesses -/

theorem witness_MemReadFollowsItsRule :
    (∃ j < 16, Platform.canRead (lending [⟨0x1000, 15⟩] []).platform (0x1000 + j) = false) ∧
    ∀ j < 16, Platform.canRead blockA.platform (0x1000 + j) = true := ⟨⟨15, by decide⟩, by decide⟩
theorem witness_MemWriteFollowsItsRule :
    (∃ j < 4, Platform.canWrite (lending [] [⟨0x2000, 2⟩]).platform (0x2000 + j) = false) ∧
    ∀ j < 4, Platform.canWrite blockA.platform (0x2000 + j) = true := ⟨⟨2, by decide⟩, by decide⟩

/-- `blockA` with both addresses moved. -/
def movedA (s d : Nat) : State := { blockA with src := BitVec.ofNat 64 s, dst := BitVec.ofNat 64 d }

theorem witness_WrappingFootprintIsRefused_firs :
    (movedA (2 ^ 32 - 14) 0).tapsnum = 12 ∧ AddressesWritten (movedA (2 ^ 32 - 14) 0) ∧
    (∀ k : Fin 12, k.val < (movedA (2 ^ 32 - 14) 0).tapsnum.toNat → (movedA (2 ^ 32 - 14) 0).tapsWritten[k] = true) ∧
    2 ^ (movedA (2 ^ 32 - 14) 0).platform.aw <
      (movedA (2 ^ 32 - 14) 0).src.toNat + (4 + (movedA (2 ^ 32 - 14) 0).tapsnum.toNat - 1) :=
  ⟨by decide, ⟨rfl, rfl⟩, by decide, by decide⟩
theorem witness_WrappingFootprintIsRefused_firv :
    (packedBlock tapsB10 0 0x2000 0 bytesA).wvalid = true ∧ AddressesWritten (packedBlock tapsB10 0 0x2000 0 bytesA) ∧
    (packedBlock tapsB10 0 0x2000 0 bytesA).src.toNat < delta (packedBlock tapsB10 0 0x2000 0 bytesA).tapsnum :=
  ⟨rfl, ⟨rfl, rfl⟩, by decide⟩
theorem witness_IntersectingFootprintsAreRefused :
    (movedA 0x1000 0x100E).tapsnum = 12 ∧ AddressesWritten (movedA 0x1000 0x100E) ∧
    (∀ k : Fin 12, k.val < (movedA 0x1000 0x100E).tapsnum.toNat → (movedA 0x1000 0x100E).tapsWritten[k] = true) ∧
    (movedA 0x1000 0x100E).src.toNat + (4 + (movedA 0x1000 0x100E).tapsnum.toNat - 1) ≤ 2 ^ (movedA 0x1000 0x100E).platform.aw ∧
    (movedA 0x1000 0x100E).dst.toNat + 4 ≤ 2 ^ (movedA 0x1000 0x100E).platform.aw ∧
    ((movedA 0x1000 0x100E).src.toNat ≤ 0x100E ∧
      0x100E < (movedA 0x1000 0x100E).src.toNat + (4 + (movedA 0x1000 0x100E).tapsnum.toNat - 1)) ∧
    ((movedA 0x1000 0x100E).dst.toNat ≤ 0x100E ∧ 0x100E < (movedA 0x1000 0x100E).dst.toNat + 4) :=
  ⟨by decide, ⟨rfl, rfl⟩, by decide, by decide, by decide, by decide, by decide⟩
theorem witness_IntersectingFootprintsAreRefused_firv :
    (movedA 0x1000 0x1010).wvalid = true ∧ AddressesWritten (movedA 0x1000 0x1010) ∧
    delta (movedA 0x1000 0x1010).tapsnum ≤ (movedA 0x1000 0x1010).src.toNat ∧
    0x1010 < (movedA 0x1000 0x1010).src.toNat - delta (movedA 0x1000 0x1010).tapsnum + (4 + 13) ∧
    (movedA 0x1000 0x1010).dst.toNat = 0x1010 :=
  ⟨rfl, ⟨rfl, rfl⟩, by decide, by decide, by decide⟩
theorem witness_NeverWrittenOperandIsRefused :
    let s : State := { blockA with srcWritten := false }
    let u : State := { blockA with tapsWritten := blockA.tapsWritten.set 11 false }
    s.tapsnum = 12 ∧ s.srcWritten = false ∧ s.wvalid = true ∧ s.platform.aw ≤ 64 ∧
    State.reset.wvalid = false ∧ State.reset.platform.aw ≤ 64 ∧ (32 ≤ 63 ∧ 63 ≤ 63) ∧
    u.tapsWritten[11] = false ∧ (11 : Fin 12).val < u.tapsnum.toNat ∧
    ∀ k' : Fin 12, k' < 11 → u.tapsWritten[k'] = true ∧ -128 ≤ u.taps[k'].toInt ∧ u.taps[k'].toInt ≤ 127 := by decide

/-! ### PACK and FIRS -/

theorem blockA_packReady : PackReady blockA := ⟨by decide, by decide, by decide⟩
theorem blockB10_packReady : PackReady blockB10 := ⟨by decide, by decide, by decide⟩

theorem witness_PackFollowsItsPseudocode :
    (State.reset.tapsnum ≠ 10 ∧ State.reset.tapsnum ≠ 12) ∧ PackReady blockA ∧ PackReady blockB10 ∧
    (configured tapsU12 0 0 0 []).tapsnum = 12 ∧ 127 < ((configured tapsU12 0 0 0 []).taps[5]).toInt ∧
    ∀ k' : Fin 12, k' ≤ 5 → (configured tapsU12 0 0 0 []).tapsWritten[k'] = true :=
  ⟨by decide, blockA_packReady, blockB10_packReady, by decide, by decide, by decide⟩

/-- V44: the byte pixel 3 needs last, 0x100E, is not lent. -/
def shortMargin : State := lending [⟨0x1000, 14⟩] [⟨0x2000, 4⟩]
/-- V45: only `DST` and `DST + 1` may be written. -/
def shortOutput : State := lending [⟨0x1000, 17⟩] [⟨0x2000, 2⟩]

theorem shortMargin_firsPosed : FirsPosed 4 shortMargin where
  count := by decide
  addresses := ⟨rfl, rfl⟩
  written := by decide
  placed := ⟨by decide, by decide, by decide⟩

theorem shortOutput_firsPosed : FirsPosed 4 shortOutput where
  count := by decide
  addresses := ⟨rfl, rfl⟩
  written := by decide
  placed := ⟨by decide, by decide, by decide⟩

theorem witness_FirsFollowsItsPseudocode :
    State.reset.tapsnum ≠ 10 ∧ State.reset.tapsnum ≠ 12 ∧ blockA.tapsnum = 12 ∧ FirsReady 4 blockA :=
  ⟨by decide, by decide, by decide, blockA_firsReady⟩
theorem witness_FirsFollowsItsPseudocode_margin :
    FirsPosed 4 shortMargin ∧
    (∀ i', i' < 3 → Platform.canWrite shortMargin.platform (shortMargin.dst.toNat + i') = true ∧
      ∀ k, k < shortMargin.tapsnum.toNat → Platform.canRead shortMargin.platform (shortMargin.src.toNat + i' + k) = true) ∧
    (11 < shortMargin.tapsnum.toNat ∧ Platform.canRead shortMargin.platform (shortMargin.src.toNat + 3 + 11) = false) :=
  ⟨shortMargin_firsPosed, by decide, by decide⟩
theorem witness_FirsFollowsItsPseudocode_output :
    FirsPosed 4 shortOutput ∧
    (∀ i', i' < 2 → Platform.canWrite shortOutput.platform (shortOutput.dst.toNat + i') = true ∧
      ∀ k, k < shortOutput.tapsnum.toNat → Platform.canRead shortOutput.platform (shortOutput.src.toNat + i' + k) = true) ∧
    (∀ k, k < shortOutput.tapsnum.toNat → Platform.canRead shortOutput.platform (shortOutput.src.toNat + 2 + k) = true) ∧
    Platform.canWrite shortOutput.platform (shortOutput.dst.toNat + 2) = false :=
  ⟨shortOutput_firsPosed, by decide, by decide, by decide⟩
theorem witness_ScalarSumFitsItsAccumulator :
    (blockA.tapsnum = 10 ∨ blockA.tapsnum = 12) ∧
    dotProduct blockA.platform blockA.mem (State.activeTaps blockA) 0x1000 = .ok 14752 := ⟨by decide, by rfl⟩

/-- P5: twelve pixels of 200 and a tap set that sums to 128. -/
def unityBlock : State := configured tapsA12 0x3000 0x3100 0x3000 (List.replicate 12 200)

theorem unityBlock_firsReady : FirsReady 1 unityBlock where
  count := by decide
  addresses := ⟨rfl, rfl⟩
  written := by decide
  placed := ⟨by decide, by decide, by decide⟩
  lent := ⟨by decide, by decide⟩

theorem witness_FirsHasUnityGain :
    FirsReady 1 unityBlock ∧
    ((List.range unityBlock.tapsnum.toNat).map (fun k => (unityBlock.taps[k]?.getD 0).toInt)).sum = 128 ∧
    ∀ k, k < unityBlock.tapsnum.toNat → Memory.byteAt unityBlock.mem (unityBlock.src.toNat + 0 + k) = 200 :=
  ⟨unityBlock_firsReady, by decide, by decide⟩

/-! ### Lanes and FIRV -/

theorem witness_MaddSaturatesAdjacentPairs :
    (List.replicate 16 (255 : Byte)).length = 16 ∧ blockA.w0.toList.length = 16 ∧
    ∃ product : Nat → Int, ∀ j, product j = (((List.replicate 16 (255 : Byte)).getD j 0).toNat : Int) * (blockA.w0.toList.getD j 0).toInt :=
  ⟨by decide, by decide, _, fun _ => rfl⟩
theorem witness_LaneShiftMovesOneLaneTowardZero : ([0, 465, 776, -405, 2752, 1972, -173, 0] : List Int).length = 8 := by decide
theorem witness_RoundingLaw : (-32768 : Int) ≤ 32767 ∧ (32767 : Int) ≤ 32767 := by decide
theorem witness_TilePixelsFollowTheDatapath :
    (bytesA.take 16).length = 16 ∧ (bytesA.drop 1).length = 16 ∧ blockA.w0.toList.length = 16 ∧
    blockA.w1.toList.length = 16 := by decide
theorem witness_LastTwoColumnsAreZero : WindowsMatch blockA ∧ (bytesA.take 16).length = 16 ∧ (bytesA.drop 1).length = 16 :=
  ⟨blockA_windowsMatch, by decide, by decide⟩
theorem witness_ReductionIsExactUnderItsCondition :
    ReductionExact 388 1860 7275 12972 0 493 ∧ ReductionExact 0 0 26520 26520 0 0 := by decide

theorem shortMargin_firvPosed : FirvPosed 4 shortMargin where
  supported := by decide
  valid := rfl
  addresses := ⟨rfl, rfl⟩
  margin := by decide
  placed := ⟨by decide, by decide, by decide⟩

theorem shortOutput_firvPosed : FirvPosed 4 shortOutput where
  supported := by decide
  valid := rfl
  addresses := ⟨rfl, rfl⟩
  margin := by decide
  placed := ⟨by decide, by decide, by decide⟩

theorem witness_FirvFollowsItsPseudocode :
    5 ∉ [4, 8, 16, 32, 64] ∧ 64 ∈ [4, 8, 16, 32, 64] ∧ State.reset.wvalid = false ∧ FirvReady 4 blockA ∧
    FirvReady 4 blockB10 ∧ FirvReady 8 blockA :=
  ⟨by decide, by decide, rfl, blockA_firvReady, blockB10_firvReady, blockA_firvReady_eight⟩
theorem witness_FirvFollowsItsPseudocode_margin :
    FirvPosed 4 shortMargin ∧
    (16 < 17 ∧ Platform.canRead shortMargin.platform
      (shortMargin.src.toNat - delta shortMargin.tapsnum + 4 * 0 + 16) = false) :=
  ⟨shortMargin_firvPosed, by decide⟩
theorem witness_FirvFollowsItsPseudocode_output :
    FirvPosed 4 shortOutput ∧
    (∀ j, j < 17 → Platform.canRead shortOutput.platform
      (shortOutput.src.toNat - delta shortOutput.tapsnum + 4 * 0 + j) = true) ∧
    (3 < 4 ∧ Platform.canWrite shortOutput.platform (shortOutput.dst.toNat + 4 * 0 + 3) = false) :=
  ⟨shortOutput_firvPosed, by decide, by decide⟩
theorem witness_CompositionLaw :
    4 ∈ [4, 8, 16, 32] ∧ State.Inv blockA ∧ blockA.abort = false ∧ FirvReady (2 * 4) blockA :=
  ⟨by decide, blockA_inv, rfl, blockA_firvReady_eight⟩
theorem witness_ExtraSourceBytesDoNotMatter :
    State.Inv blockA ∧ FirvReady 4 blockA ∧
    ∀ j, j < 4 + blockA.tapsnum.toNat - 1 →
      Memory.byteAt (Memory.store blockA.mem 0x1010 77) (blockA.src.toNat + j) =
        Memory.byteAt blockA.mem (blockA.src.toNat + j) := ⟨blockA_inv, blockA_firvReady, by decide⟩
theorem witness_PackSafeMakesEveryInputExact : WindowsMatch blockA ∧ packSafe blockA.tapsnum blockA.taps = true :=
  ⟨blockA_windowsMatch, by decide⟩
theorem witness_FirvMeetsItsContract_packSafe :
    State.Inv blockA ∧ FirvReady 4 blockA ∧ (InputExact 4 blockA ∨ packSafe blockA.tapsnum blockA.taps = true) :=
  ⟨blockA_inv, blockA_firvReady, .inr (by decide)⟩
theorem witness_FirvMeetsItsContract_exactInput :
    State.Inv blockE ∧ FirvReady 4 blockE ∧ packSafe blockE.tapsnum blockE.taps = false ∧ InputExact 4 blockE :=
  ⟨blockE_inv, blockE_firvReady, by decide, by decide⟩

/-! ### Aborts -/

theorem witness_BadTapsnumIsRaisedByPackAndFirsOnly : State.reset.tapsnum ≠ 10 ∧ State.reset.tapsnum ≠ 12 := by decide
theorem witness_UnsupportedWidthIsRaisedByFirvOnly :
    12 ∉ [4, 8, 16, 32, 64] ∧ ∃ t, exec (.firv 12) blockA = .next t ∧ t.cause = 1 ∧ blockA.cause ≠ 1 :=
  ⟨by decide, _, rfl, by decide, by decide⟩
theorem witness_WindowsInvalidAborts :
    4 ∈ [4, 8, 16, 32, 64] ∧ State.reset.wvalid = false ∧
    ∃ t, exec (.firv 4) State.reset = .next t ∧ t.cause = 6 ∧ State.reset.cause ≠ 6 :=
  ⟨by decide, rfl, _, rfl, by decide, by decide⟩
theorem witness_AbortsArePrecise :
    (∃ t, perform (.csrWrite 0 0x00000C03#64) blockA = .next t ∧ t.abort = true) ∧
    (∃ t, perform (.csrRead 0) blockA = .next t ∧ t.abort = true) ∧
    (∃ t, perform (.csrWrite 0 0x00000402#64) shortMargin = .next t ∧ t.abort = true) ∧
    blockA.abort = false ∧ shortMargin.abort = false :=
  ⟨⟨_, rfl, rfl⟩, ⟨_, rfl, rfl⟩, ⟨_, rfl, rfl⟩, rfl, rfl⟩
theorem witness_ResetOperationClearsTheBlock :
    ∃ t, abortedA.abort = true ∧ perform .reset abortedA = .next t ∧ t.abort = false := ⟨_, rfl, rfl, rfl⟩
theorem witness_OnlyResetLeavesAnAbort :
    let s := State.withNextOp (.csrWrite 2 0x1234#64) abortedA
    s.abort = true ∧ nextOp s ≠ some .reset ∧ ∃ t, step s = .next t := ⟨rfl, by decide, _, rfl⟩

/-! ### The whole machine -/

theorem witness_CommandsKeepTheirFrame :
    (∃ t, exec .pack blockA = .next t) ∧ (∃ t, exec (.firs 4) blockA = .next t) ∧ ∃ t, exec (.firv 4) blockA = .next t :=
  ⟨⟨_, rfl⟩, ⟨_, rfl⟩, ⟨_, rfl⟩⟩
theorem witness_CommandsKeepTheirFrame_pack_aborts :
    ¬ PackReady State.reset ∧ ∃ t, exec .pack State.reset = .next t :=
  ⟨fun h => absurd h.count (by decide), _, rfl⟩
theorem witness_FiltersKeepTheirSourceBytes :
    (∃ t, exec (.firs 4) blockA = .next t) ∧ (∃ t, exec (.firv 4) blockA = .next t) ∧
    (∃ t, exec (.firs 4) shortMargin = .next t ∧ t.abort = true) ∧
    ∃ t, exec (.firv 4) shortMargin = .next t ∧ t.abort = true :=
  ⟨⟨_, rfl⟩, ⟨_, rfl⟩, ⟨_, rfl, rfl⟩, _, rfl, rfl⟩
theorem witness_RepeatedFilterChangesNothing : State.Inv blockA ∧ FirsReady 4 blockA ∧ FirvReady 4 blockA :=
  ⟨blockA_inv, blockA_firsReady, blockA_firvReady⟩
theorem witness_StepRunsTheDecodedCommand :
    let s := aboutTo (.csrWrite 0 0x00000403#64)
    s.abort = false ∧ nextOp s = some (.csrWrite 0 0x00000403#64) ∧
    decode (truncTo (Platform.xw s.platform) 0x00000403#64) = .ok (.firv 4) ∧ ∃ t, exec (.firv 4) s = .next t :=
  ⟨rfl, rfl, by decide, _, rfl⟩
theorem witness_HostIndexAdvancesByOne :
    nextOp State.reset = none ∧ nextOp (aboutTo .reset) = some .reset ∧ ∃ t, step (aboutTo .reset) = .next t :=
  ⟨rfl, rfl, _, rfl⟩
theorem witness_PlatformNeverChanges : ∃ t, step (aboutTo (.memStore 0 [1])) = .next t := ⟨_, rfl⟩
theorem witness_OnlyPackMakesWindowsValid :
    let s := State.withNextOp (.csrWrite 0 1#64) (configured tapsA12 0 0 0 [])
    s.wvalid = false ∧ ∃ t, step s = .next t ∧ t.wvalid = true := ⟨rfl, _, rfl, rfl⟩
theorem witness_OnlyPackAndResetWriteWindows :
    ∃ t, step (aboutTo .reset) = .next t ∧ t.w0 ≠ (aboutTo .reset).w0 := ⟨_, rfl, by decide⟩
theorem witness_OnlyFiltersAndTheHostWriteMemory :
    ∃ t, step (aboutTo (.memStore 0x3000 [1])) = .next t ∧ t.mem ≠ (aboutTo (.memStore 0x3000 [1])).mem :=
  ⟨_, rfl, by decide⟩
theorem witness_EveryStepKeepsTheInvariant :
    State.Inv blockA ∧ ∃ t, step blockA = .next t := ⟨blockA_inv, _, rfl⟩

end Sys2Proof.Tests
end

section
/-! PROOF. The register file by number, host reads and writes (spec/10_state.md), and what is refused for a register never
written (R39); then the obligations on the block's state. -/

namespace Sys2Proof.Machine

/-! ### The numbered register file (R21) -/

/-- `regOf` reads R21's numbering backwards: a number names at most the register that has it. -/
theorem regOf_eq_some_iff (n : Nat) (r : Reg) : regOf n = some r ↔ regNumber r = n := by
  constructor
  · intro h
    unfold regOf at h
    split_ifs at h <;> cases h <;> simp only [regNumber] <;> omega
  · rintro rfl
    cases r with
    | cmd | status | src | dst | tapsnum => rfl
    | tap _ | w0 _ | w1 _ =>
      simp only [regNumber]
      simp (disch := omega) only [regOf, if_neg, dif_neg, dif_pos, Nat.add_sub_cancel_left]

@[simp] theorem regOf_regNumber (r : Reg) : regOf (regNumber r) = some r := (regOf_eq_some_iff _ r).2 rfl

/-- A register number of 32..63 is that of a window element (R21). -/
theorem exists_window_of_number {n : Nat} (h : 32 ≤ n ∧ n ≤ 63) :
    (∃ j, regNumber (.w0 j) = n) ∨ ∃ j, regNumber (.w1 j) = n := by
  by_cases hn : n < 48
  · exact .inl ⟨⟨n - 32, by omega⟩, by simp only [regNumber]; omega⟩
  · exact .inr ⟨⟨n - 48, by omega⟩, by simp only [regNumber]; omega⟩

/-! ### Host accesses to the register file (R22, R37, R40) -/

/-- R37: the numbers whose write is illegal, those of a read-only register or of none. -/
theorem writeRegister_illegal {n : Nat}
    (hn : n = 1 ∨ (32 ≤ n ∧ n ≤ 63) ∨ (5 ≤ n ∧ n ≤ 15) ∨ (28 ≤ n ∧ n ≤ 31) ∨ 64 ≤ n) (v : HostValue) (s : State) :
    writeRegister n v s = .next (State.aborted .illegalReg s) := by
  have number {r : Reg} (h : regOf n = some r) : regNumber r = n := (regOf_eq_some_iff n r).1 h
  rcases writeRegister_cases n v s with ⟨h, -⟩ | ⟨h, -⟩ | ⟨h, -⟩ | ⟨h, -⟩ | ⟨k, h, -⟩ | h
  case inr.inr.inr.inr.inr => exact h
  all_goals
    have := number h
    simp only [regNumber] at this
    omega

/-- R37: the numbers whose read is illegal, that of `CMD` or of no register. -/
theorem csrRead_illegal {n : Nat} (hn : n = 0 ∨ (5 ≤ n ∧ n ≤ 15) ∨ (28 ≤ n ∧ n ≤ 31) ∨ 64 ≤ n) (s : State) :
    csrRead n s = readIllegal s := by
  rcases csrRead_cases n s with ⟨r, hr, hcmd, -⟩ | ⟨-, h⟩
  · have hnum := (regOf_eq_some_iff n r).1 hr
    cases r <;> simp only [regNumber] at hnum
    case cmd => exact absurd rfl hcmd
    all_goals omega
  · exact h

theorem csrRead_regNumber {r : Reg} (hr : r ≠ .cmd) (s : State) : csrRead (regNumber r) s = .next (readRegister r s) := by
  rcases csrRead_cases (regNumber r) s with ⟨r', hr', -, h⟩ | ⟨h, -⟩
  · cases (regOf_regNumber r).symm.trans hr'; exact h
  · simp [hr] at h

theorem readRegister_of_specified {s : State} {r : Reg} (h : unspecified s r = false) :
    readRegister r s = State.returning (regPattern s r) s := by simp [readRegister, h]

theorem readRegister_of_unspecified {s : State} {r : Reg} (h : unspecified s r = true) :
    readRegister r s =
      State.drewFree (State.returning (truncTo (regWidth s.platform r) (Config.freeValue s.freeNext)) s) := by
  simp [readRegister, h]

/-- R39, R28: the host's read of an unspecified register returns some value of its width and leaves the block as it was. -/
theorem csrRead_unspecified {s : State} {r : Reg} (hr : r ≠ .cmd) (hu : unspecified s r = true) :
    ∃ v : HostValue, v.toNat < 2 ^ regWidth s.platform r ∧
      csrRead (regNumber r) s = .next { s with returned := s.returned ++ [v], freeNext := s.freeNext + 1 } :=
  ⟨_, toNat_truncTo_lt _ _, by rw [csrRead_regNumber hr, readRegister_of_unspecified hu]; rfl⟩

@[simp] theorem readRegister_abort (r : Reg) (s : State) : (readRegister r s).abort = s.abort := by
  unfold readRegister; split <;> rfl

@[simp] theorem readRegister_cause (r : Reg) (s : State) : (readRegister r s).cause = s.cause := by
  unfold readRegister; split <;> rfl

theorem readIllegal_live {s : State} (h : s.abort = false) :
    readIllegal s = .next (State.aborted .illegalReg (State.returning 0 s)) := by simp [readIllegal, h, raise_eq]

theorem readIllegal_aborted {s : State} (h : s.abort = true) : readIllegal s = .next (State.returning 0 s) := by
  simp [readIllegal, h]

/-! ### What an aborted block keeps (R40, R182) -/

theorem hostStore_next {a : Nat} {bytes : List Byte} {s t : State} (h : hostStore a bytes s = .next t) :
    t = State.withMemory (Memory.storeBytes s.mem a bytes) s := by
  unfold hostStore at h
  split at h <;> cases h
  rfl

theorem hostLoad_next {a n : Nat} {s t : State} (h : hostLoad a n s = .next t) :
    t = { s with returned := s.returned ++ (Memory.bytesAt s.mem a n).map (fun b => b.setWidth 64) } := by
  unfold hostLoad at h
  split at h <;> cases h
  rfl

/-- R40, R182: every host operation but `Reset` leaves an abort and its cause standing. -/
theorem perform_keeps_abort {op : HostOp} {s t : State} (ha : s.abort = true) (hop : op ≠ .reset)
    (h : perform op s = .next t) : t.abort = true ∧ t.cause = s.cause := by
  cases op with
  | csrWrite n v =>
    rw [perform, csrWrite_aborted ha] at h
    cases h; exact ⟨ha, rfl⟩
  | csrRead n =>
    rw [perform] at h
    rcases csrRead_cases n s with ⟨r, -, -, hr⟩ | ⟨-, hr⟩
    · rw [hr] at h; cases h; simp [ha]
    · rw [hr, readIllegal_aborted ha] at h; cases h; simp [ha]
  | reset => exact absurd rfl hop
  | memStore a bytes => cases hostStore_next h; simp [ha]
  | memLoad a n => cases hostLoad_next h; exact ⟨ha, rfl⟩

/-! ### Commands that read a register never written (R39) -/

theorem execFirs_refused {width : Nat} {s : State} {r : Refusal} (hl : s.tapsnum = 10 ∨ s.tapsnum = 12)
    (hr : firsRefusal width s = some r) : execFirs width s = .refused r := by
  simp [execFirs, (legalTapsnum_iff _).2 hl, hr]

theorem execFirv_refused {width : Nat} {s : State} {r : Refusal} (hw : width ∈ Config.widths) (hv : s.wvalid = true)
    (hr : firvRefusal width s = some r) : execFirv width s = .refused r := by
  cases hb : blockLevel width with
  | none => exact absurd hw ((blockLevel_none_iff width).1 hb)
  | some level => simp [execFirv, hb, hv, hr]

theorem unwrittenAddress_isSome {s : State} (h : s.srcWritten = false ∨ s.dstWritten = false) :
    ∃ n, unwrittenAddress s = some n := by
  rw [← Option.ne_none_iff_exists', Ne, unwrittenAddress_none_iff]
  rintro ⟨hs, hd⟩
  simp [hs, hd] at h

theorem firstUnwrittenTap_isSome {n : Nat} {s : State} (h : ∃ k : Fin 12, k.val < n ∧ s.tapsWritten[k] = false) :
    ∃ k, firstUnwrittenTap n s = some k := by
  obtain ⟨k, hk, hw⟩ := h
  rw [← Option.ne_none_iff_exists', Ne, firstUnwrittenTap_none_iff]
  intro hall
  simp [hall k hk] at hw

theorem firsRefusal_never_written {width : Nat} {s : State} (hw : 0 < width)
    (h : s.srcWritten = false ∨ s.dstWritten = false ∨
      ∃ k : Fin 12, k.val < s.tapsnum.toNat ∧ s.tapsWritten[k] = false) :
    ∃ n, firsRefusal width s = some (.registerNeverWritten n) := by
  rw [firsRefusal, if_neg hw.ne']
  cases ha : unwrittenAddress s with
  | some n => exact ⟨n, rfl⟩
  | none =>
    obtain ⟨hs, hd⟩ := (unwrittenAddress_none_iff s).1 ha
    obtain ⟨k, hk⟩ := firstUnwrittenTap_isSome (by simpa [hs, hd] using h)
    exact ⟨16 + k, by simp [hk]⟩

theorem firvRefusal_never_written {width : Nat} {s : State} (h : s.srcWritten = false ∨ s.dstWritten = false) :
    ∃ n, firvRefusal width s = some (.registerNeverWritten n) := by
  obtain ⟨n, hn⟩ := unwrittenAddress_isSome h
  exact ⟨n, by rw [firvRefusal, hn]⟩

/-- `PACK`'s check stops at the first tap never written when it has passed every tap before it. -/
theorem packScan_unwritten {l : List (Bool × Tap)} {i : Nat} {t : Tap} (hi : l[i]? = some (false, t))
    (hpre : ∀ j < i, ∀ x, l[j]? = some x → x.1 = true ∧ tapFits x.2 = true) (k : Nat) :
    packScan k l = some (.inr (.registerNeverWritten (16 + (k + i)))) := by
  induction l generalizing i k with
  | nil => simp at hi
  | cons x l ih =>
    obtain ⟨w, u⟩ := x
    cases i with
    | zero => cases hi; rfl
    | succ i =>
      obtain ⟨hw, hf⟩ := hpre 0 i.succ_pos _ rfl
      simp only at hw hf
      have hrest := ih (k := k + 1) hi fun j hj x hx => hpre (j + 1) (by omega) x hx
      rw [packScan, hw, hf, hrest, Nat.add_right_comm k 1 i]
      rfl

theorem getElem?_packOperands {s : State} {k : Fin 12} (hk : k.val < s.tapsnum.toNat) :
    (packOperands s)[k.val]? = some (s.tapsWritten[k], s.taps[k]) := by
  rw [packOperands, List.getElem?_take, if_pos hk, List.getElem?_zip_eq_some]
  simp

theorem execPack_unwritten {s : State} {k : Fin 12} (hl : s.tapsnum = 10 ∨ s.tapsnum = 12)
    (hk : k.val < s.tapsnum.toNat) (hw : s.tapsWritten[k] = false)
    (hpre : ∀ k' : Fin 12, k' < k → s.tapsWritten[k'] = true ∧ tapFits s.taps[k'] = true) :
    execPack s = .refused (.registerNeverWritten (16 + k)) := by
  have hscan : packScan 0 (packOperands s) = some (.inr (.registerNeverWritten (16 + (0 + k.val)))) := by
    refine packScan_unwritten (t := s.taps[k]) (by rw [getElem?_packOperands hk, hw]) (fun j hj x hx => ?_) 0
    rw [getElem?_packOperands (k := ⟨j, by omega⟩) (by simp only; omega)] at hx
    cases hx
    exact hpre ⟨j, by omega⟩ hj
  simp [execPack, (legalTapsnum_iff _).2 hl, hscan]

theorem tapFits_iff (t : Tap) : tapFits t = true ↔ -128 ≤ t.toInt ∧ t.toInt ≤ 127 := by simp [tapFits]

theorem unspecified_reset_tap (k : Fin 12) : unspecified State.reset (.tap k) = true := by
  simp [unspecified, State.reset]

/-! ### The obligations -/

/-- Settles O8: no number of R37's lists names a register the host may write (respectively read). -/
theorem illegalRegisterAccessAborts : Obligations.IllegalRegisterAccessAborts := by
  intro s ha
  refine ⟨fun n v hn => ?_, fun n hn => ?_⟩
  · rw [csrWrite_live ha, writeRegister_illegal hn]; rfl
  · rw [csrRead_illegal hn, readIllegal_live ha]; rfl

/-- Settles O11, one lemma per kind of access, and by cases on the host operation for the last clause. -/
theorem abortedBlockIgnoresWritesAndAnswersReads : Obligations.AbortedBlockIgnoresWritesAndAnswersReads := by
  intro s ha
  refine ⟨fun n v => csrWrite_aborted ha, fun n hn => ?_, fun r hr hu => ?_, fun r hr hu => csrRead_unspecified hr hu,
    fun op t hop h => perform_keeps_abort ha hop h⟩
  · rw [csrRead_illegal hn, readIllegal_aborted ha]; rfl
  · rw [csrRead_regNumber hr, readRegister_of_specified hu]; rfl

/-- Settles O19: the refusal of each command from the flags of what was written; a host read by the register the number names. -/
theorem neverWrittenOperandIsRefused : Obligations.NeverWrittenOperandIsRefused := by
  refine ⟨fun width s hw hl h => ?_, fun width s hw hv h => ?_, fun s k hl hk hu hpre => ?_, fun s n bits _ h => ?_⟩
  · obtain ⟨n, hn⟩ := firsRefusal_never_written hw h
    exact ⟨n, execFirs_refused hl hn⟩
  · obtain ⟨n, hn⟩ := firvRefusal_never_written (width := width) h
    exact ⟨n, execFirv_refused hw hv hn⟩
  · exact execPack_unwritten hl hk hu fun k' hk' =>
      ⟨(hpre k' hk').1, (tapFits_iff _).2 (hpre k' hk').2⟩
  · have hreg : ∃ r : Reg, r ≠ .cmd ∧ regNumber r = n ∧ unspecified s r = true ∧ regWidth s.platform r = bits := by
      rcases h with ⟨rfl, hu, rfl⟩ | ⟨rfl, hu, rfl⟩ | ⟨k, rfl, hu, rfl⟩ | ⟨hlo, hhi, hu, rfl⟩
      · exact ⟨.src, by simp, rfl, by simp [unspecified, hu], rfl⟩
      · exact ⟨.dst, by simp, rfl, by simp [unspecified, hu], rfl⟩
      · exact ⟨.tap k, by simp, rfl, by rw [unspecified, hu]; rfl, rfl⟩
      · rcases exists_window_of_number ⟨hlo, hhi⟩ with ⟨j, hj⟩ | ⟨j, hj⟩
        · exact ⟨.w0 j, by simp, hj, by simp [unspecified, hu], rfl⟩
        · exact ⟨.w1 j, by simp, hj, by simp [unspecified, hu], rfl⟩
    obtain ⟨r, hr, rfl, hu, rfl⟩ := hreg
    exact csrRead_unspecified hr hu

/-- Settles O13: the fields of `State.reset`, and the operation `Reset` keeping memory. -/
theorem stateAfterReset : Obligations.StateAfterReset := by
  refine ⟨⟨rfl, rfl, rfl, by decide, rfl⟩, unspecified_reset_tap, fun j => ⟨rfl, rfl⟩, rfl, rfl, rfl, fun s t h => ?_⟩
  cases h
  rfl

end Sys2Proof.Machine
end

section
/-! PROOF. What an accepted `MemWrite` leaves in memory (R54), and when the footprints of a filter command are refused (R51, R63);
then the obligations of spec/20_memory.md. -/

namespace Sys2Proof.Machine

/-! ### The bytes after a run of stores -/

theorem byteAt_storeBytes_inside {bs : List Byte} {j : Nat} (hj : j < bs.length) (m : Memory) (a : Nat) :
    some (Memory.byteAt (Memory.storeBytes m a bs) (a + j)) = bs[j]? := by
  simp [Memory.byteAt, lookup_storeBytes, hj]

theorem byteAt_storeBytes_outside {bs : List Byte} {a b : Nat} (hb : b < a ∨ a + bs.length ≤ b) (m : Memory) :
    Memory.byteAt (Memory.storeBytes m a bs) b = Memory.byteAt m b :=
  byteAt_of_lookup (by rw [lookup_storeBytes, if_neg (by omega)])

/-! ### The refusals on footprints (R51, R63) -/

/-- R51 over the integers: a footprint that is not empty leaves memory at the bottom or at the top. -/
theorem inSpace_eq_false_iff (aw : Nat) (base : Int) {len : Nat} (hl : 0 < len) :
    Span.inSpace aw ⟨base, len⟩ = false ↔ base < 0 ∨ ((2 ^ aw : Nat) : Int) < base + len := by
  have hlen : (len == 0) = false := by simpa using hl.ne'
  simp [Span.inSpace, hlen, Classical.or_iff_not_imp_left]

theorem footprintRefusal_wraps {p : Platform} {reads output : Span}
    (h : Span.inSpace p.aw reads = false ∨ Span.inSpace p.aw output = false) :
    footprintRefusal p reads output = some .footprintWraps := by
  rcases h with h | h <;> simp [footprintRefusal, h]

/-- R63: two footprints inside memory with a common address `x`. -/
theorem footprintRefusal_intersect {p : Platform} {a len d width x : Nat} (hr : a + len ≤ 2 ^ p.aw)
    (hw : d + width ≤ 2 ^ p.aw) (hxr : a ≤ x ∧ x < a + len) (hxw : d ≤ x ∧ x < d + width) :
    footprintRefusal p ⟨a, len⟩ ⟨d, width⟩ = some .footprintsIntersect := by
  have hlen : 0 < len := by omega
  have hwidth : 0 < width := by omega
  have hmeets := (meets_iff a len d width hlen hwidth).2 (by omega)
  simp [footprintRefusal, (inSpace_iff _ _ _ hlen).2 hr, (inSpace_iff _ _ _ hwidth).2 hw, hmeets]

/-- With its operands written, `FIRS` can be refused for its footprints only. -/
theorem firsRefusal_of_written {width : Nat} {s : State} (hw : 0 < width) (ha : AddressesWritten s)
    (ht : ∀ k : Fin 12, k.val < s.tapsnum.toNat → s.tapsWritten[k] = true) :
    firsRefusal width s =
      footprintRefusal s.platform ⟨s.src.toNat, width + s.tapsnum.toNat - 1⟩ ⟨s.dst.toNat, width⟩ := by
  simp [firsRefusal, hw.ne', (unwrittenAddress_none_iff s).2 ha, (firstUnwrittenTap_none_iff _ s).2 ht, firsReads, writes]

/-- `FIRV` likewise; it reads no tap (R73). -/
theorem firvRefusal_of_written {width : Nat} {s : State} (ha : AddressesWritten s) :
    firvRefusal width s =
      footprintRefusal s.platform ⟨(s.src.toNat : Int) - delta s.tapsnum, width + 13⟩ ⟨s.dst.toNat, width⟩ := by
  simp [firvRefusal, (unwrittenAddress_none_iff s).2 ha, firvReads, writes]

theorem tapsnum_pos_of_legal {n : BitVec 4} (h : n = 10 ∨ n = 12) : 0 < n.toNat := by
  rcases h with rfl | rfl <;> decide

theorem width_pos_of_supported {width : Nat} (h : width ∈ Config.widths) : 0 < width := by
  simp only [List.mem_cons, List.not_mem_nil, or_false] at h
  omega

/-! ### The obligations -/

/-- Settles O17: the footprint that leaves memory is the source's or the destination's; `FIRV`'s may also begin below 0. -/
theorem wrappingFootprintIsRefused : Obligations.WrappingFootprintIsRefused := by
  refine ⟨fun width s hw hl ha ht h => execFirs_refused hl ?_, fun width s hw hv ha h => execFirv_refused hw hv ?_⟩
  · rw [firsRefusal_of_written hw ha ht]
    have hn := tapsnum_pos_of_legal hl
    rcases h with hsrc | hdst
    · exact footprintRefusal_wraps (.inl ((inSpace_eq_false_iff _ _ (by omega)).2 (by omega)))
    · exact footprintRefusal_wraps (.inr ((inSpace_eq_false_iff _ _ hw).2 (by omega)))
  · rw [firvRefusal_of_written ha]
    rcases or_assoc.2 h with hsrc | hdst
    · exact footprintRefusal_wraps (.inl ((inSpace_eq_false_iff _ _ (by omega)).2 (by omega)))
    · exact footprintRefusal_wraps (.inr ((inSpace_eq_false_iff _ _ (width_pos_of_supported hw)).2 (by omega)))

/-- Settles O18: the common address makes the two intervals meet; `FIRV`'s first read address is not below 0. -/
theorem intersectingFootprintsAreRefused : Obligations.IntersectingFootprintsAreRefused := by
  refine ⟨?_, ?_⟩
  · rintro width s hw hl ha ht hr hd ⟨x, hxr, hxw⟩
    refine execFirs_refused hl ?_
    rw [firsRefusal_of_written hw ha ht]
    exact footprintRefusal_intersect (by omega) hd (by omega) hxw
  · rintro width s hw hv ha hm hr hd ⟨x, hxr, hxw⟩
    refine execFirv_refused hw hv ?_
    rw [firvRefusal_of_written ha, ← Nat.cast_sub hm]
    exact footprintRefusal_intersect hr hd hxr hxw

/-- Settles O15: an accepted read is the run of bytes `bytesAt`. -/
theorem memReadFollowsItsRule : Obligations.MemReadFollowsItsRule := by
  intro p m a n
  refine ⟨fun ⟨j, hj, h⟩ => memRead_error_of_unreadable hj h, fun h => ?_⟩
  exact ⟨_, memRead_ok_of_readable h, length_bytesAt m n a, fun j hj => by rw [getElem?_bytesAt, if_pos hj]⟩

/-- Settles O16: an accepted write is the run of stores `storeBytes`. -/
theorem memWriteFollowsItsRule : Obligations.MemWriteFollowsItsRule := by
  intro p m a bs
  refine ⟨fun ⟨j, hj, h⟩ => memWrite_error_of_unwritable hj h, fun h => ?_⟩
  exact ⟨_, memWrite_ok_of_writable h, fun j hj => byteAt_storeBytes_inside hj m a,
    fun b hb => byteAt_storeBytes_outside hb m⟩

end Sys2Proof.Machine
end

section
/-! PROOF. The fields of a command word as numbers (R71), which words are illegal (R75) and which causes a command can record
(R171); then the obligations of spec/30_encoding.md on illegal words and unsupported widths. -/

namespace Sys2Proof.Machine

/-! ### The fields as quotients and remainders (R71) -/

theorem fieldOp_eq (v : HostValue) : fieldOp v = v.toNat % 256 := by
  simp [fieldOp, BitVec.extractLsb'_toNat]

theorem fieldWidth_eq (v : HostValue) : fieldWidth v = v.toNat / 2 ^ 8 % 65536 := by
  simp [fieldWidth, BitVec.extractLsb'_toNat, Nat.shiftRight_eq_div_pow]

theorem fieldRsv_eq (v : HostValue) : fieldRsv v = v.toNat / 2 ^ 24 % 256 := by
  simp [fieldRsv, BitVec.extractLsb'_toNat, Nat.shiftRight_eq_div_pow]

theorem fieldAbove_eq (v : HostValue) : fieldAbove v = v.toNat / 2 ^ 32 := by
  have hv := v.isLt
  simp only [fieldAbove, BitVec.extractLsb'_toNat, Nat.shiftRight_eq_div_pow]
  omega

theorem toNat_formatC (rsv : BitVec 8) (width : BitVec 16) (op : BitVec 8) :
    (formatC rsv width op).toNat = rsv.toNat * 2 ^ 24 + width.toNat * 2 ^ 8 + op.toNat := by
  rw [formatC, BitVec.toNat_append, BitVec.toNat_append, ← Nat.shiftLeft_add_eq_or_of_lt op.isLt,
    ← Nat.shiftLeft_add_eq_or_of_lt width.isLt, Nat.shiftLeft_eq, Nat.shiftLeft_eq]
  omega

theorem toNat_commandValue (word : BitVec 32) : (commandValue word).toNat = word.toNat := by
  have hw := word.isLt
  simp only [commandValue, BitVec.toNat_setWidth]
  omega

/-! ### The words that are illegal (R75) -/

/-- R72, R75: everything the decoder accepts, by the field `op`. -/
theorem decode_eq_ok_iff (v : HostValue) (i : Instr) :
    decode v = .ok i ↔ fieldAbove v = 0 ∧ fieldRsv v = 0 ∧
      ((fieldOp v = 1 ∧ fieldWidth v = 0 ∧ i = .pack) ∨ (fieldOp v = 2 ∧ i = .firs (fieldWidth v)) ∨
        (fieldOp v = 3 ∧ i = .firv (fieldWidth v))) := by
  constructor
  · intro h
    have ha : fieldAbove v = 0 := by by_contra hn; rw [decode, if_pos hn] at h; cases h
    have hr : fieldRsv v = 0 := by by_contra hn; rw [decode, if_neg (not_not.2 ha), if_pos hn] at h; cases h
    rw [decode, if_neg (not_not.2 ha), if_neg (not_not.2 hr)] at h
    refine ⟨ha, hr, ?_⟩
    split at h
    next ho =>
      split_ifs at h with hw
      cases h; exact .inl ⟨ho, not_not.1 hw, rfl⟩
    next ho => cases h; exact .inr (.inl ⟨ho, rfl⟩)
    next ho => cases h; exact .inr (.inr ⟨ho, rfl⟩)
    next => cases h
  · rintro ⟨ha, hr, ⟨ho, hw, rfl⟩ | ⟨ho, rfl⟩ | ⟨ho, rfl⟩⟩
    · simp [decode, ha, hr, ho, hw]
    · simp [decode, ha, hr, ho]
    · simp [decode, ha, hr, ho]

/-- R75, clause by clause, on the fields of the value. -/
def IllegalWord (v : HostValue) : Prop :=
  fieldOp v = 0 ∨ 4 ≤ fieldOp v ∨ fieldRsv v ≠ 0 ∨ (fieldOp v = 1 ∧ fieldWidth v ≠ 0) ∨ fieldAbove v ≠ 0

theorem decode_error_of_illegalWord {v : HostValue} (h : IllegalWord v) : ∃ e, decode v = .error e := by
  cases hd : decode v with
  | error e => exact ⟨e, rfl⟩
  | ok i =>
    rw [decode_eq_ok_iff] at hd
    unfold IllegalWord at h
    omega

theorem decode_ok_of_not_illegalWord {v : HostValue} (h : ¬ IllegalWord v) : ∃ i, decode v = .ok i := by
  unfold IllegalWord at h
  simp only [decode_eq_ok_iff]
  have hop : fieldOp v = 1 ∨ fieldOp v = 2 ∨ fieldOp v = 3 := by omega
  rcases hop with ho | ho | ho
  · exact ⟨_, by omega, by omega, .inl ⟨ho, by omega, rfl⟩⟩
  · exact ⟨_, by omega, by omega, .inr (.inl ⟨ho, rfl⟩)⟩
  · exact ⟨_, by omega, by omega, .inr (.inr ⟨ho, rfl⟩)⟩

/-- R73, R74: the word of `FIRV` decodes at every 16-bit width. -/
theorem decode_encode_firv {width : Nat} (hw : width < 65536) :
    decode (commandValue (encode (.firv width))) = .ok (.firv width) := by
  have hv : (commandValue (encode (.firv width))).toNat = width * 2 ^ 8 + 3 := by
    rw [toNat_commandValue, encode, toNat_formatC]
    simp [opcodeOf, Nat.mod_eq_of_lt hw]
  rw [decode_eq_ok_iff, fieldAbove_eq, fieldRsv_eq, fieldOp_eq, fieldWidth_eq, hv]
  exact ⟨by omega, by omega, .inr (.inr ⟨by omega, by congr 1; omega⟩)⟩

/-! ### The write of a command word (R31) -/

/-- With `ABORT = 0`, a value the interface carries reaches the decoder uncut. -/
theorem csrWrite_cmd {s : State} {v : HostValue} (ha : s.abort = false) (hv : v.toNat < 2 ^ max s.platform.aw 32) :
    csrWrite 0 v s = issueCommand v s := by
  rw [csrWrite_live ha, Platform.xw, truncTo_of_lt hv]
  rfl

theorem issueCommand_error {v : HostValue} {e : DecodeReject} (h : decode v = .error e) (s : State) :
    issueCommand v s = .next (State.aborted .illegalCmd s) := by simp [issueCommand, h, raise_eq]

theorem issueCommand_ok {v : HostValue} {i : Instr} (h : decode v = .ok i) (s : State) : issueCommand v s = exec i s := by
  simp [issueCommand, h]

/-! ### The causes a command can record (R171) -/

/-- The causes with which a command can abort, by command and, for `FIRV`, by width (R74). -/
def abortCauses : Instr → List Cause
  | .pack => [.badTapsnum, .tapRange]
  | .firs _ => [.badTapsnum, .srcMargin, .dstAccess]
  | .firv width => if width ∈ Config.widths then [.windowsInvalid, .srcMargin, .dstAccess] else [.unsupportedWidth]

theorem blockLevel_some_mem {width level : Nat} (h : blockLevel width = some level) : width ∈ Config.widths := by
  by_contra hw
  simp [(blockLevel_none_iff width).2 hw] at h

/-- A command leaves `CAUSE` as it was or records one of its own causes. -/
theorem exec_cause {i : Instr} {s t : State} (h : exec i s = .next t) :
    t.cause = s.cause ∨ ∃ c ∈ abortCauses i, t.cause = causeCode c := by
  cases i with
  | pack =>
    rcases execPack_cases h with ⟨-, rfl⟩ | ⟨-, rfl⟩ | ⟨-, -, rfl⟩
    · exact .inr ⟨.badTapsnum, by simp [abortCauses], rfl⟩
    · exact .inr ⟨.tapRange, by simp [abortCauses], rfl⟩
    · exact .inl rfl
  | firs width =>
    rcases execFirs_cases h with ⟨-, rfl⟩ | ⟨-, -, ⟨m, -, rfl⟩ | ⟨c, -, hc, rfl⟩⟩
    · exact .inr ⟨.badTapsnum, by simp [abortCauses], rfl⟩
    · exact .inl rfl
    · exact .inr ⟨c, by simp [abortCauses, hc], rfl⟩
  | firv width =>
    rcases execFirv_cases h with ⟨hl, rfl⟩ | ⟨level, hl, -, rfl⟩ | ⟨level, hl, -, -, ⟨m, -, rfl⟩ | ⟨c, -, hc, rfl⟩⟩
    · exact .inr ⟨.unsupportedWidth, by rw [abortCauses, if_neg ((blockLevel_none_iff width).1 hl)]; simp, rfl⟩
    · exact .inr ⟨.windowsInvalid, by rw [abortCauses, if_pos (blockLevel_some_mem hl)]; simp, rfl⟩
    · exact .inl rfl
    · exact .inr ⟨c, by rw [abortCauses, if_pos (blockLevel_some_mem hl)]; simp [hc], rfl⟩

theorem causeCode_injective : Function.Injective causeCode := by
  intro c d
  cases c <;> cases d <;> decide

/-- A cause that is not among a command's own is never recorded anew. -/
theorem exec_cause_ne {i : Instr} {s t : State} {c : Cause} (h : exec i s = .next t) (hc : c ∉ abortCauses i)
    (hs : s.cause ≠ causeCode c) : t.cause ≠ causeCode c := by
  rcases exec_cause h with hkept | ⟨d, hd, hcode⟩
  · rwa [hkept]
  · rw [hcode]
    exact fun hcd => hc (causeCode_injective hcd ▸ hd)

theorem illegalCmd_not_mem_abortCauses (i : Instr) : Cause.illegalCmd ∉ abortCauses i := by
  cases i with
  | pack => decide
  | firs width => simp [abortCauses]
  | firv width => rw [abortCauses]; split_ifs <;> decide

theorem exec_firv_unsupported {width : Nat} (hw : width ∉ Config.widths) (s : State) :
    exec (.firv width) s = .next (State.aborted .unsupportedWidth s) := by
  simp [exec, execFirv, (blockLevel_none_iff width).2 hw, raise_eq]

/-! ### The obligations -/

/-- Settles O4: R75's clauses are those under which the decoder rejects, and no command's own causes hold `ILLEGAL_CMD`. -/
theorem illegalCommandWordsAbort : Obligations.IllegalCommandWordsAbort := by
  intro s v ha hv
  rw [csrWrite_cmd ha hv, ← fieldOp_eq, ← fieldWidth_eq, ← fieldRsv_eq, ← fieldAbove_eq]
  refine ⟨fun hill => ?_, fun hleg => ?_⟩
  · obtain ⟨e, he⟩ := decode_error_of_illegalWord hill
    exact issueCommand_error he s
  · obtain ⟨i, hi⟩ := decode_ok_of_not_illegalWord hleg
    exact ⟨i, hi, issueCommand_ok hi s, fun t ht hs => exec_cause_ne ht (illegalCmd_not_mem_abortCauses i) hs⟩

/-- Settles O5: every 16-bit width survives the encoding; `UNSUPPORTED_WIDTH` is a cause of the unsupported widths only. -/
theorem firvAcceptsFiveWidthsOnly : Obligations.FirvAcceptsFiveWidthsOnly := by
  refine ⟨fun s width hlt hw => ⟨decode_encode_firv hlt, exec_firv_unsupported hw s⟩, fun s t width hw _ hs ht => ?_⟩
  refine exec_cause_ne (c := .unsupportedWidth) ht ?_ (by rw [hs]; decide)
  rw [abortCauses, if_pos hw]
  decide

end Sys2Proof.Machine
end

section
/-! PROOF. Configuration writes (R90), the aborts of `PACK` (R92, R93) and the positions of the windows it builds (R94); then the
obligations of spec/40_config_and_packing.md. -/

namespace Sys2Proof.Machine

/-! ### Writes the block accepts (R90) -/

/-- With `ABORT = 0`, the value the interface carries reaches the register's own truncation uncut. -/
theorem csrWrite_regNumber {s : State} {v : HostValue} (ha : s.abort = false) (hv : v.toNat < 2 ^ max s.platform.aw 32)
    (r : Reg) : csrWrite (regNumber r) v s = writeRegister (regNumber r) v s := by
  rw [csrWrite_live ha, Platform.xw, truncTo_of_lt hv]

theorem writeRegister_tap (k : Fin 12) (v : HostValue) (s : State) :
    writeRegister (regNumber (.tap k)) v s = .next (State.writeTap k v s) := by
  rw [writeRegister, regOf_regNumber]

/-- R9: `trunc_N(v)` as the pattern a register of `N` bits holds. -/
theorem setWidth_eq_ofNat_mod (bits : Nat) (v : HostValue) : v.setWidth bits = BitVec.ofNat bits (v.toNat % 2 ^ bits) := by
  apply BitVec.eq_of_toNat_eq
  simp

theorem writeTapsnum_eq (v : HostValue) (s : State) :
    State.writeTapsnum v s = { s with tapsnum := BitVec.ofNat 4 (v.toNat % 16), wvalid := false } := by
  rw [State.writeTapsnum, setWidth_eq_ofNat_mod]; rfl

theorem writeTap_eq (k : Fin 12) (v : HostValue) (s : State) :
    State.writeTap k v s =
      { s with taps := s.taps.set k (BitVec.ofNat 16 (v.toNat % 65536)), wvalid := false,
               tapsWritten := s.tapsWritten.set k true } := by
  rw [State.writeTap, setWidth_eq_ofNat_mod]; rfl

/-! ### The aborts of `PACK` (R92, R93) -/

theorem execPack_illegal_count {s : State} (h10 : s.tapsnum ≠ 10) (h12 : s.tapsnum ≠ 12) :
    execPack s = .next (State.aborted .badTapsnum s) := by
  have hl : legalTapsnum s.tapsnum = false := by
    rw [← Bool.not_eq_true, legalTapsnum_iff]
    exact not_or.2 ⟨h10, h12⟩
  simp [execPack, hl, raise_eq]

/-- `PACK`'s check raises `TAP_RANGE` when it meets a tap out of range before any tap never written. -/
theorem packScan_unfit {l : List (Bool × Tap)} {i : Nat} {t : Tap} (hi : l[i]? = some (true, t)) (ht : tapFits t = false)
    (hpre : ∀ j < i, ∀ x, l[j]? = some x → x.1 = true) (k : Nat) : packScan k l = some (.inl .tapRange) := by
  induction l generalizing i k with
  | nil => simp at hi
  | cons x l ih =>
    obtain ⟨w, u⟩ := x
    cases i with
    | zero => cases hi; simp [packScan, ht]
    | succ i =>
      have hw : w = true := hpre 0 i.succ_pos _ rfl
      have hrest := ih hi (fun j hj x hx => hpre (j + 1) (by omega) x hx) (k + 1)
      simp [packScan, hw, hrest]

theorem execPack_unfit {s : State} {k : Fin 12} (hl : s.tapsnum = 10 ∨ s.tapsnum = 12) (hk : k.val < s.tapsnum.toNat)
    (hw : ∀ k' : Fin 12, k' ≤ k → s.tapsWritten[k'] = true) (ht : tapFits s.taps[k] = false) :
    execPack s = .next (State.aborted .tapRange s) := by
  have hscan : packScan 0 (packOperands s) = some (.inl .tapRange) := by
    refine packScan_unfit (by rw [getElem?_packOperands hk, hw k le_rfl]) ht (fun j hj x hx => ?_) 0
    rw [getElem?_packOperands (k := ⟨j, by omega⟩) (by simp only; omega)] at hx
    cases hx
    exact hw ⟨j, by omega⟩ hj.le
  simp [execPack, (legalTapsnum_iff _).2 hl, hscan, raise_eq]

theorem tapFits_eq_false_iff (t : Tap) : tapFits t = false ↔ t.toInt < -128 ∨ 127 < t.toInt := by
  rw [← Bool.not_eq_true, tapFits_iff]; omega

/-! ### The windows of a successful `PACK` (R92, R94) -/

theorem execPack_ready {s : State} (h : PackReady s) : execPack s = .next (State.packed s) := by
  obtain ⟨hl, hscan⟩ := (packReady_iff s).1 h
  simp [execPack, hl, hscan]

theorem getElem_eq_getD_toList (w : Vector Elem 16) (j : Nat) (h : j < 16) : w[j] = w.toList.getD j 0 := by simp [h]

theorem getElem_window (offset n : Nat) (taps : Vector Tap 12) (j : Nat) (h : j < 16) :
    (window offset n taps)[j] = windowElem offset n taps j := by
  rw [getElem_eq_getD_toList, getD_window _ _ _ h]

/-- R93: a tap that fits keeps its value in a signed 8-bit element. -/
theorem toInt_setWidth_of_fits {t : Tap} (h : -128 ≤ t.toInt ∧ t.toInt ≤ 127) : (t.setWidth 8).toInt = t.toInt := by
  rw [BitVec.toInt_eq_toNat_cond] at h
  rw [BitVec.toInt_setWidth, BitVec.toInt_eq_toNat_cond, Int.bmod]
  omega

theorem windowElem_below {offset j : Nat} (h : j < offset) (n : Nat) (taps : Vector Tap 12) :
    windowElem offset n taps j = 0 := if_neg (by omega)

/-- R94: tap `j - offset` at position `j`, with its own signed value when the taps in use fit. -/
theorem toInt_windowElem {n : Nat} {taps : Vector Tap 12} (hn : n ≤ 12)
    (hfit : ∀ k : Fin 12, k.val < n → -128 ≤ taps[k].toInt ∧ taps[k].toInt ≤ 127) (offset j : Nat) :
    (windowElem offset n taps j).toInt =
      if h : offset ≤ j ∧ j < offset + n ∧ j - offset < 12 then (taps[j - offset]'h.2.2).toInt else 0 := by
  by_cases hj : offset ≤ j ∧ j < offset + n
  · have hk : j - offset < 12 := by omega
    rw [windowElem, if_pos hj, dif_pos ⟨hj.1, hj.2, hk⟩, Vector.getElem?_eq_getElem hk]
    exact toInt_setWidth_of_fits (hfit ⟨j - offset, hk⟩ (by simp only; omega))
  · rw [windowElem, if_neg hj, dif_neg fun h => hj ⟨h.1, h.2.1⟩]
    rfl

theorem getElem_window1_add_two (n : BitVec 4) (taps : Vector Tap 12) (j : Nat) (h : j < 14) :
    (window1 n taps)[j + 2] = (window0 n taps)[j] := by
  rw [getElem_eq_getD_toList, getElem_eq_getD_toList, getD_window1_add_two n taps h]

/-- R92, R94: `W1[0]` and `W1[1]` lie below tap 0's position. -/
theorem getElem_window1_below (n : BitVec 4) (taps : Vector Tap 12) (j : Nat) (h : j < 2) :
    (window1 n taps)[j] = 0 := by
  rw [window1, getElem_window, windowElem_below (by simp only [Config.winShift]; omega)]

/-! ### The obligations -/

/-- Settles O7: a live write reaches the named register uncut, and the register keeps the low bits of its width. -/
theorem configurationWritesTruncate : Obligations.ConfigurationWritesTruncate := by
  intro s v _ hv
  refine ⟨fun ha => ?_, fun ha n _ => csrWrite_aborted ha⟩
  have write := csrWrite_regNumber ha hv
  refine ⟨?_, ?_, ?_, fun k => ?_⟩
  · exact (write .src).trans rfl
  · exact (write .dst).trans rfl
  · rw [← writeTapsnum_eq]; exact (write .tapsnum).trans rfl
  · rw [← writeTap_eq]; exact (write (.tap k)).trans (writeRegister_tap k v s)

/-- Settles O20: each outcome of the check loop, and the windows read off their definition position by position. -/
theorem packFollowsItsPseudocode : Obligations.PackFollowsItsPseudocode := by
  refine ⟨fun s h10 h12 => execPack_illegal_count h10 h12,
    fun s k hl hk hw ht => execPack_unfit hl hk hw ((tapFits_eq_false_iff _).2 ht), fun s h => ?_⟩
  have hn : s.tapsnum.toNat ≤ 12 := by rcases h.count with hc | hc <;> rw [hc] <;> decide
  refine ⟨State.packed s, execPack_ready h, rfl, fun j => ?_, ?_, ?_, fun j => ?_⟩
  · have hj : (State.packed s).w0[j] = windowElem (delta s.tapsnum) s.tapsnum.toNat s.taps j :=
      getElem_window _ _ _ _ j.isLt
    rw [hj, toInt_windowElem hn h.fit]
  · exact congrArg BitVec.toInt (getElem_window1_below s.tapsnum s.taps 0 (by decide))
  · exact congrArg BitVec.toInt (getElem_window1_below s.tapsnum s.taps 1 (by decide))
  · exact congrArg BitVec.toInt (getElem_window1_add_two s.tapsnum s.taps j j.isLt)

end Sys2Proof.Machine
end

section
/-! PROOF. The scalar filter (spec/41_scalar_filter.md): how far its loop runs, what an accepted command leaves in memory, and the
bounds of its accumulator; then the obligations on `FIRS`. -/

namespace Sys2Proof.Machine

/-! ### The outer loop up to its first refused access (R101) -/

/-- A pixel whose accesses are all allowed is written, and the loop goes on. -/
theorem filterRow_step {p : Platform} {ts : List Int} {s d : Nat} (hw : Platform.canWrite p d = true)
    (hr : ∀ k < ts.length, Platform.canRead p (s + k) = true) (n : Nat) (m : Memory) :
    filterRow p ts (n + 1) s d m =
      filterRow p ts n (s + 1) (d + 1) (Memory.store m d (outputPixel (dotValue m ts s))) := by
  simp [filterRow, dotProduct_ok hr, memWrite, hw]

/-- The loop passes the first `i` pixels when all their accesses are allowed. -/
theorem filterRow_skip {p : Platform} {ts : List Int} {i s d : Nat}
    (h : ∀ i' < i, Platform.canWrite p (d + i') = true ∧ ∀ k < ts.length, Platform.canRead p (s + i' + k) = true)
    (n : Nat) (m : Memory) : ∃ m', filterRow p ts (i + n) s d m = filterRow p ts n (s + i) (d + i) m' := by
  induction i generalizing s d m with
  | zero => exact ⟨m, by simp⟩
  | succ i ih =>
    obtain ⟨hw, hr⟩ := h 0 i.succ_pos
    obtain ⟨m', hm⟩ := ih (s := s + 1) (d := d + 1)
      (fun i' hi => by simpa only [← Nat.add_assoc, Nat.add_right_comm _ i' 1] using h (i' + 1) (Nat.succ_lt_succ hi))
      (Memory.store m d (outputPixel (dotValue m ts s)))
    refine ⟨m', ?_⟩
    rw [Nat.add_right_comm i 1 n, filterRow_step (s := s) (d := d) hw hr, hm, Nat.add_right_comm s, Nat.add_right_comm d]
    rfl

theorem filterRow_srcMargin {p : Platform} {ts : List Int} {s k : Nat} (hk : k < ts.length)
    (h : Platform.canRead p (s + k) = false) (n d : Nat) (m : Memory) :
    filterRow p ts (n + 1) s d m = .error .srcMargin := by
  simp [filterRow, dotProduct_error hk h]

theorem filterRow_dstAccess {p : Platform} {ts : List Int} {s d : Nat}
    (hr : ∀ k < ts.length, Platform.canRead p (s + k) = true) (hw : Platform.canWrite p d = false) (n : Nat) (m : Memory) :
    filterRow p ts (n + 1) s d m = .error .dstAccess := by
  simp [filterRow, dotProduct_ok hr, memWrite, hw]

/-! ### What `FIRS` answers -/

theorem execFirs_illegal_count {s : State} (h10 : s.tapsnum ≠ 10) (h12 : s.tapsnum ≠ 12) (width : Nat) :
    execFirs width s = .next (State.aborted .badTapsnum s) := by
  have hl : ¬ legalTapsnum s.tapsnum = true := fun h => ((legalTapsnum_iff _).1 h).elim h10 h12
  simp [execFirs, hl, raise_eq]

/-- R105: with no pixel to write there is nothing to refuse and nothing to do. -/
theorem execFirs_zero {s : State} (hl : s.tapsnum = 10 ∨ s.tapsnum = 12) : execFirs 0 s = .next s := by
  simp [execFirs, (legalTapsnum_iff _).2 hl, firsRefusal, filterRow, finish, State.withMemory]

/-- A command that meets the host's duties but R56's is not refused: what it answers is what its loop does. -/
theorem execFirs_posed {width : Nat} {s : State} (hw : 0 < width) (h : FirsPosed width s) :
    execFirs width s =
      finish width s (filterRow s.platform (State.activeTaps s) width s.src.toNat s.dst.toNat s.mem) := by
  have hr : firsRefusal width s = none :=
    (firsRefusal_none_iff hw (tapsnum_pos_of_legal h.count)).2 ⟨h.addresses, h.written, h.placed⟩
  simp [execFirs, (legalTapsnum_iff _).2 h.count, hr]

/-- R101's sum for a pixel is the one the inner loop forms on the memory before the command. -/
theorem dotValue_eq_scalarSum {s : State} (h : s.tapsnum = 10 ∨ s.tapsnum = 12) (i : Nat) :
    dotValue s.mem (State.activeTaps s) (s.src.toNat + i) = scalarSum s i := dotValue_activeTaps h _ _

/-- R101 for a command that meets all the host's duties: its outputs and its frame. -/
theorem execFirs_ready {width : Nat} {s : State} (hw : 0 < width) (h : FirsReady width s) :
    ∃ m, execFirs width s = .next (State.withMemory m s) ∧
      (∀ i < width, Memory.byteAt m (s.dst.toNat + i) = outputPixel (scalarSum s i)) ∧
      ∀ a, OutsideOutput width s a → Memory.byteAt m a = Memory.byteAt s.mem a := by
  have hlen := length_activeTaps h.count
  obtain ⟨m, hrow, hpixel⟩ := filterRow_ok (p := s.platform) (ts := State.activeTaps s) (m := s.mem)
    (by rw [hlen]; exact h.lent.readable) h.lent.writable (by rw [hlen]; exact h.placed.disjoint)
  refine ⟨m, by rw [execFirs_posed hw h.toFirsPosed, hrow]; rfl, fun i hi => ?_, fun a ha => ?_⟩
  · rw [Memory.byteAt, hpixel i hi, dotValue_eq_scalarSum h.count]; rfl
  · exact byteAt_of_lookup ((filterRow_frame hrow).1 a ha)

/-- R179 for the state an abort with a memory cause leaves. -/
theorem abortedMidCommand_outputUnspecified (c : Cause) (width : Nat) (s : State) :
    AbortedMidCommand c width s (State.aborted c (State.outputUnspecified width s)) where
  state := rfl
  footprint i hi := by simp [lookup_scramble, hi]
  outside a ha := by
    rw [aborted_mem, outputUnspecified_mem, lookup_scramble, if_neg (by omega)]

/-- A loop stopped by a memory access ends the command as R179 says. -/
theorem execFirs_abortedMidCommand {width : Nat} {s : State} {c : Cause} (hw : 0 < width) (h : FirsPosed width s)
    (hrow : filterRow s.platform (State.activeTaps s) width s.src.toNat s.dst.toNat s.mem = .error c) :
    ∃ t, execFirs width s = .next t ∧ AbortedMidCommand c width s t :=
  ⟨_, by rw [execFirs_posed hw h, hrow]; rfl, abortedMidCommand_outputUnspecified c width s⟩

/-! ### The accumulator (R102) and unity gain (R104) -/

/-- An unsigned byte times a signed 16-bit tap. -/
theorem pixel_mul_tap_bounds (b : Byte) (t : Tap) :
    -8355840 ≤ (b.toNat : Int) * t.toInt ∧ (b.toNat : Int) * t.toInt ≤ 8355840 := by
  have hb : |(b.toNat : Int)| ≤ 255 := by have := b.isLt; rw [abs_le]; omega
  have ht : |t.toInt| ≤ 32768 := by
    have := t.toInt_lt; have := t.le_toInt
    rw [abs_le]; omega
  have h := mul_le_mul hb ht (abs_nonneg _) (by decide)
  rw [← abs_mul] at h
  exact abs_le.1 h

/-- Twelve products at most, each within its bounds. -/
theorem sum_pixel_mul_tap_bounds {n : Nat} (hn : n ≤ 12) (pixel : Nat → Byte) (tap : Nat → Tap) :
    -100270080 ≤ ((List.range n).map fun k => ((pixel k).toNat : Int) * (tap k).toInt).sum ∧
      ((List.range n).map fun k => ((pixel k).toNat : Int) * (tap k).toInt).sum ≤ 100270080 := by
  have hterm (x : Int) (hx : x ∈ (List.range n).map fun k => ((pixel k).toNat : Int) * (tap k).toInt) :
      -8355840 ≤ x ∧ x ≤ 8355840 := by
    obtain ⟨k, -, rfl⟩ := List.mem_map.1 hx
    exact pixel_mul_tap_bounds _ _
  have hlow := List.card_nsmul_le_sum _ _ fun x hx => (hterm x hx).1
  have hhigh := List.sum_le_card_nsmul _ _ fun x hx => (hterm x hx).2
  simp only [List.length_map, List.length_range, nsmul_eq_mul] at hlow hhigh
  omega

theorem tapsnum_le_twelve {n : BitVec 4} (h : n = 10 ∨ n = 12) : n.toNat ≤ 12 := by
  rcases h with rfl | rfl <;> decide

/-- The inner loop answers its exact sum or nothing. -/
theorem eq_dotValue_of_dotProduct {p : Platform} {m : Memory} {ts : List Int} {a : Nat} {sum : Int}
    (h : dotProduct p m ts a = .ok sum) : sum = dotValue m ts a := by
  rcases dotProduct_cases p m ts a with ⟨h', -⟩ | ⟨h', -⟩ <;> rw [h'] at h <;> cases h
  rfl

/-- Equal source bytes come out of the sum as a common factor. -/
theorem scalarSum_of_equal_bytes {s : State} {i : Nat} {v : Byte}
    (h : ∀ k, k < s.tapsnum.toNat → Memory.byteAt s.mem (s.src.toNat + i + k) = v) :
    scalarSum s i = (v.toNat : Int) * ((List.range s.tapsnum.toNat).map fun k => (s.taps[k]?.getD 0).toInt).sum := by
  rw [scalarSum, ← List.sum_map_mul_left]
  exact congrArg List.sum (List.map_congr_left fun k hk => by rw [h k (List.mem_range.1 hk)])

/-- R104: scaled by `UNITY`, a byte survives the rounding and the clamp. -/
theorem outputPixel_mul_unity (v : Byte) : outputPixel ((v.toNat : Int) * 128) = v := by
  have hout := toNat_outputPixel ((v.toNat : Int) * 128)
  have hv := v.isLt
  exact BitVec.eq_of_toNat_eq (by omega)

/-! ### The obligations -/

/-- Settles O21: the early answers, the outputs and frame of an accepted command, and the first refused access, found by passing the
pixels before it. -/
theorem firsFollowsItsPseudocode : Obligations.FirsFollowsItsPseudocode := by
  refine ⟨fun width s h10 h12 => execFirs_illegal_count h10 h12 width, fun s hl => execFirs_zero hl,
    fun width s hw h => ?_, fun width s i hw h hi hpre => ?_⟩
  · obtain ⟨m, hexec, hpixel, hframe⟩ := execFirs_ready hw h
    refine ⟨_, hexec, rfl, fun i hi => ?_, hframe⟩
    rw [withMemory_mem, hpixel i hi, toNat_outputPixel, roundedPixel]
  · obtain ⟨n, rfl⟩ : ∃ n, width = i + (n + 1) := ⟨width - (i + 1), by omega⟩
    rw [← length_activeTaps h.count] at hpre ⊢
    obtain ⟨m, hrow⟩ := filterRow_skip hpre (n + 1) s.mem
    refine ⟨fun ⟨k, hk, hr⟩ => ?_, fun hr hwr => ?_⟩
    · exact execFirs_abortedMidCommand hw h (hrow.trans (filterRow_srcMargin hk hr _ _ _))
    · exact execFirs_abortedMidCommand hw h (hrow.trans (filterRow_dstAccess hr hwr _ _))

/-- Settles O22: an answered sum is R102's, of at most twelve bounded products. -/
theorem scalarSumFitsItsAccumulator : Obligations.ScalarSumFitsItsAccumulator := by
  intro s hl
  have bounds := sum_pixel_mul_tap_bounds (tapsnum_le_twelve hl)
  refine ⟨fun p m a sum h => ?_, fun i => bounds _ _⟩
  rw [eq_dotValue_of_dotProduct h, dotValue_activeTaps hl]
  exact ⟨rfl, bounds _ _⟩

/-- Settles O23: the output pixel is that of the sum `v * 128`. -/
theorem firsHasUnityGain : Obligations.FirsHasUnityGain := by
  intro width s i v hw h hi hsum hbytes
  obtain ⟨m, hexec, hpixel, -⟩ := execFirs_ready hw h
  refine ⟨_, hexec, ?_⟩
  rw [withMemory_mem, hpixel i hi, scalarSum_of_equal_bytes hbytes, hsum, outputPixel_mul_unity]

end Sys2Proof.Machine
end

section
/-! PROOF. The lane primitives of the vector filter on their whole ranges (spec/42_vector_filter_base.md section 1): the lanes of
`MADD`, the bounds of its products, and the rounding law; then the obligations on them. -/

namespace Sys2Proof.Machine

/-! ### The lanes of `MADD`, and `MIN` and `MAX` (R114, R119) -/

/-- Lane `m` of `MADD` is the saturated pair of positions `2m` and `2m + 1`. -/
theorem getElem?_madd {p : List Byte} {w : List Elem} {m : Nat} (hp : 2 * m + 1 < p.length) (hw : 2 * m + 1 < w.length) :
    (madd p w)[m]? =
      some (maddPair (p.getD (2 * m) 0) (p.getD (2 * m + 1) 0) (w.getD (2 * m) 0) (w.getD (2 * m + 1) 0)) := by
  induction p, w using madd.induct generalizing m with
  | case1 p0 p1 ps c0 c1 cs ih =>
    cases m with
    | zero => rfl
    | succ m =>
      simp only [List.length_cons] at hp hw
      exact ih (by omega) (by omega)
  | case2 p w h =>
    match p, w with
    | [], _ | [_], _ => simp at hp
    | _, [] | _, [_] => simp at hw
    | _ :: _ :: _, _ :: _ :: _ => exact (h _ _ _ _ _ _ rfl rfl).elim

/-- An unsigned byte times an integer lies between 0 and 255 times it, whatever its sign. -/
theorem byte_mul_bounds (b : Byte) (c : Int) :
    255 * min c 0 ≤ (b.toNat : Int) * c ∧ (b.toNat : Int) * c ≤ 255 * max c 0 := by
  have hb0 : (0 : Int) ≤ b.toNat := by omega
  have hb : (b.toNat : Int) ≤ 255 := by have := b.isLt; omega
  rcases le_total c 0 with hc | hc
  · rw [min_eq_left hc, max_eq_right hc]
    exact ⟨mul_le_mul_of_nonpos_right hb hc, mul_nonpos_of_nonneg_of_nonpos hb0 hc⟩
  · rw [min_eq_right hc, max_eq_left hc]
    exact ⟨mul_nonneg hb0 hc, mul_le_mul_of_nonneg_right hb hc⟩

/-- R114: the product of a pixel and a signed 8-bit window element. -/
theorem pixel_mul_elem_bounds (b : Byte) (c : Elem) :
    -32640 ≤ (b.toNat : Int) * c.toInt ∧ (b.toNat : Int) * c.toInt ≤ 32385 := by
  have hprod := byte_mul_bounds b c.toInt
  have hlow := c.le_toInt
  have hhigh := c.toInt_lt
  omega

/-- R119: whichever operand is the minimum, the other is the maximum. -/
theorem minLane_add_maxLane (a b : Int) : minLane a b + maxLane a b = a + b := by
  rw [minLane_eq, maxLane_eq, min_add_max]

/-! ### Rounding (R120, R129) -/

/-- R120 with the multiplier 256 is R10's rounding, at every integer. -/
theorem roundHi_256 (a : Int) : roundHi a 256 = (a + 64) / 128 := by
  rw [roundHi, shiftRightArith_fifteen]
  omega

/-! ### The obligations -/

/-- Settles O24: each lane is a saturated pair of products, and a product is bounded by its factors' ranges. -/
theorem maddSaturatesAdjacentPairs : Obligations.MaddSaturatesAdjacentPairs := by
  intro p w hp hw product hproduct
  have bounds (j : Nat) : -32640 ≤ product j ∧ product j ≤ 32385 := hproduct j ▸ pixel_mul_elem_bounds _ _
  refine ⟨by rw [length_madd p w (hp.trans hw.symm), hp], fun j _ => bounds j, fun m hm => ⟨?_, ?_⟩⟩
  · rw [getElem?_madd (by omega) (by omega), maddPair, sat16_eq, hproduct, hproduct]
  · have heven := bounds (2 * m)
    have hodd := bounds (2 * m + 1)
    omega

/-- Settles O25: the lanes after lane 0, with a zero behind them. -/
theorem laneShiftMovesOneLaneTowardZero : Obligations.LaneShiftMovesOneLaneTowardZero := by
  intro v hv
  obtain ⟨a, lanes, rfl⟩ := List.exists_cons_of_length_eq_add_one hv
  have hlen : lanes.length = 7 := Nat.succ.inj hv
  refine ⟨by simp [laneShift, hlen], fun m hm => ?_, ?_⟩
  · rw [laneShift, List.getElem?_append_left (by omega), List.getElem?_cons_succ]
  · rw [laneShift, List.getElem?_append_right (by omega), hlen]; rfl

/-- Settles O26: saturation acts on the sum alone; `MIN` and `MAX` are the order's. -/
theorem saturatingAddAndMinMax : Obligations.SaturatingAddAndMinMax := by
  intro a b
  exact ⟨sat16_eq _, by rw [adds, adds, Int.add_comm], minLane_eq a b, maxLane_eq a b, minLane_add_maxLane a b⟩

/-- Settles O27: on the signed 16-bit range the rounded value stays within -256..256, and narrowing clamps it. -/
theorem roundingLaw : Obligations.RoundingLaw := by
  intro a hlow hhigh
  rw [toNat_packUs, roundHi_256]
  exact ⟨rfl, by omega, by omega, rfl⟩

end Sys2Proof.Machine
end

section
/-! PROOF. One output pixel of the vector filter against the scalar sum: its six lanes, the exactness of their reduction (R124, R125)
and `PackSafe` (R127). -/

namespace Sys2Proof.Machine

/-! ### From the columns of a tile back to its rows (R116, R118) -/

/-- R118's sum of one row vector, from its lanes 0 to 5. -/
def reduceRow (r : List Int) : Int :=
  reduceSix (r.getD 0 0) (r.getD 1 0) (r.getD 2 0) (r.getD 3 0) (r.getD 4 0) (r.getD 5 0)

theorem getD_column (rows : List (List Int)) (m n : Nat) : (column rows m).getD n 0 = (rows.getD n []).getD m 0 := by
  simp only [column, List.getD_eq_getElem?_getD, List.getElem?_map]
  cases rows[n]? <;> rfl

/-- The transpose only carries lane `m` of row `n` to lane `n` of column `m`. -/
theorem reduceColumns_transpose (rows : List (List Int)) (n : Nat) :
    reduceColumns (transpose rows) n = reduceRow (rows.getD n []) := by
  have lane (m : Nat) (hm : m < 8) : ((transpose rows).getD m []).getD n 0 = (rows.getD n []).getD m 0 := by
    have hcol : (transpose rows).getD m [] = column rows m := by
      rw [transpose, List.getD_eq_getElem?_getD, List.getElem?_map, List.getElem?_range hm]; rfl
    rw [hcol, getD_column]
  simp (disch := decide) only [reduceColumns, reduceRow, lane]

theorem getD_tilePixels (p0 p1 : List Byte) (w0 w1 : List Elem) {n : Nat} (hn : n < 4) :
    (tilePixels p0 p1 w0 w1).getD n 0 = roundAndNarrow (reduceRow ((partialSums p0 p1 w0 w1).getD n [])) := by
  rw [← reduceColumns_transpose, tilePixels, List.getD_eq_getElem?_getD, List.getElem?_map, List.getElem?_range hn]; rfl

/-! ### The lanes of a tile's rows (R124) -/

theorem getD_madd_bytesAt (m : Memory) (a : Nat) {w : List Elem} (hw : w.length = 16) {j : Nat} (hj : j < 8) :
    (madd (Memory.bytesAt m a 16) w).getD j 0 =
      sat16 (((Memory.byteAt m (a + 2 * j)).toNat : Int) * (w.getD (2 * j) 0).toInt +
        ((Memory.byteAt m (a + 2 * j + 1)).toNat : Int) * (w.getD (2 * j + 1) 0).toInt) := by
  rw [List.getD_eq_getElem?_getD, getElem?_madd (by rw [length_bytesAt]; omega) (by omega), Option.getD_some, maddPair,
    getD_bytesAt m (by omega), getD_bytesAt m (by omega), Nat.add_assoc a]

theorem getD_toList (w : Vector Elem 16) (j : Nat) : w.toList.getD j 0 = w[j]?.getD 0 := by
  simp [List.getD_eq_getElem?_getD]

/-- A lane of `MADD` with `W0` is a saturated partial sum of the pixel its load begins at. -/
theorem getD_madd_w0 (s : State) (i : Nat) {m : Nat} (hm : m < 8) :
    (madd (Memory.bytesAt s.mem (s.src.toNat - delta s.tapsnum + i) 16) s.w0.toList).getD m 0 =
      sat16 (exactPartial s i m) := by
  rw [getD_madd_bytesAt _ _ (by simp) hm, getD_toList, getD_toList]; rfl

/-- The row of `W1`, one lane on, holds the partial sums of the pixel two places after its load's beginning. -/
theorem getD_laneShift_madd_w1 {s : State} (h : WindowsMatch s) (i : Nat) {m : Nat} (hm : m < 7) :
    (laneShift (madd (Memory.bytesAt s.mem (s.src.toNat - delta s.tapsnum + i) 16) s.w1.toList)).getD m 0 =
      sat16 (exactPartial s (i + 2) m) := by
  have helem (j : Nat) (hj : j < 14) : s.w1.toList.getD (j + 2) 0 = s.w0.toList.getD j 0 := by
    rw [h.first, h.second, getD_window1_add_two _ _ hj]
  rw [getD_laneShift _ _ (by rw [length_madd _ _ (by simp), length_bytesAt]; omega),
    getD_madd_bytesAt _ _ (by simp) (by omega), show 2 * (m + 1) = 2 * m + 2 by omega,
    show 2 * m + 2 + 1 = 2 * m + 1 + 2 by omega, helem _ (by omega), helem _ (by omega), getD_toList, getD_toList,
    exactPartial]
  congr 6 <;> omega

/-- R124: lane `m` of row `n` of the tile at offset `4 q` is the saturated partial sum `m` of output pixel `4 q + n`. -/
theorem getD_partialSums {s : State} (h : WindowsMatch s) (q : Nat) {n m : Nat} (hn : n < 4) (hm : m < 6) :
    ((partialSums (Memory.bytesAt s.mem (s.src.toNat - delta s.tapsnum + 4 * q) 16)
      (Memory.bytesAt s.mem (s.src.toNat - delta s.tapsnum + 4 * q + 1) 16) s.w0.toList s.w1.toList).getD n []).getD m 0 =
      sat16 (exactPartial s (4 * q + n) m) := by
  have hrow : n = 0 ∨ n = 1 ∨ n = 2 ∨ n = 3 := by omega
  rcases hrow with rfl | rfl | rfl | rfl
  · exact getD_madd_w0 s (4 * q) (by omega)
  · exact getD_madd_w0 s (4 * q + 1) (by omega)
  · exact getD_laneShift_madd_w1 h (4 * q) (by omega)
  · exact getD_laneShift_madd_w1 h (4 * q + 1) (by omega)

/-! ### The exact reduction (R125) -/

/-- Under R125's condition nothing saturates before the last addition. -/
theorem reduceSix_of_exact {c0 c1 c2 c3 c4 c5 : Int} (h : ReductionExact c0 c1 c2 c3 c4 c5) :
    reduceSix (sat16 c0) (sat16 c1) (sat16 c2) (sat16 c3) (sat16 c4) (sat16 c5) =
      sat16 (c0 + c1 + c2 + c3 + c4 + c5) := by
  obtain ⟨⟨h0, h1, h2, h3, h4, h5⟩, h01, h45, h0145, hmin⟩ := h
  have hkeep := minLane_add_maxLane c2 c3
  have hfour : c0 + c1 + (c4 + c5) = c0 + c1 + c4 + c5 := by omega
  have hlast : c0 + c1 + c4 + c5 + minLane c2 c3 + maxLane c2 c3 = c0 + c1 + c2 + c3 + c4 + c5 := by omega
  rw [sat16_of_fits h0, sat16_of_fits h1, sat16_of_fits h2, sat16_of_fits h3, sat16_of_fits h4, sat16_of_fits h5, reduceSix,
    adds_of_fits h01, adds_of_fits h45, adds_of_fits (a := c0 + c1) (by rwa [hfour]), hfour, adds_of_fits hmin, adds, hlast]

/-- The vector rounding (R120, R121) stores the byte the scalar rounding stores. -/
theorem roundAndNarrow_eq_outputPixel (t : Int) : roundAndNarrow t = outputPixel t := by
  have h : ((roundAndNarrow t).toNat : Int) = (outputPixel t).toNat := by
    rw [roundAndNarrow, toNat_packUs, roundHi_256, toNat_outputPixel]
  exact BitVec.eq_of_toNat_eq (by omega)

/-- A sum that saturates is clamped to the same byte as before. -/
theorem outputPixel_sat16 (t : Int) : outputPixel (sat16 t) = outputPixel t := by
  rw [sat16_eq]
  have hsat := toNat_outputPixel (max (-32768) (min 32767 t))
  have hexact := toNat_outputPixel t
  exact BitVec.eq_of_toNat_eq (by omega)

/-! ### The partial sums and the scalar sum (R124) -/

theorem toInt_getD_w0 {s : State} (h : WindowsMatch s) {j : Nat} (hj : j < 12) :
    (s.w0[j]?.getD 0).toInt =
      if delta s.tapsnum ≤ j ∧ j < delta s.tapsnum + s.tapsnum.toNat then (s.taps[j - delta s.tapsnum]?.getD 0).toInt
      else 0 := by
  have hfit : ∀ k : Fin 12, k.val < s.tapsnum.toNat → -128 ≤ s.taps[k].toInt ∧ s.taps[k].toInt ≤ 127 :=
    fun k hk => (tapFits_iff _).1 (h.fit k hk)
  rw [← getD_toList, h.first, window0, getD_window _ _ _ (by omega), toInt_windowElem (tapsnum_le_twelve h.count) hfit]
  by_cases hin : delta s.tapsnum ≤ j ∧ j < delta s.tapsnum + s.tapsnum.toNat
  · have hk : j - delta s.tapsnum < 12 := by omega
    rw [dif_pos ⟨hin.1, hin.2, hk⟩, if_pos hin, Vector.getElem?_eq_getElem hk, Option.getD_some]
  · rw [dif_neg fun hc => hin ⟨hc.1, hc.2.1⟩, if_neg hin]

/-- The product at window position `j` of the pixel `i`: a byte of the vector load times an element of `W0`. -/
def windowTerm (s : State) (i j : Nat) : Int :=
  ((Memory.byteAt s.mem (s.src.toNat - delta s.tapsnum + i + j)).toNat : Int) * (s.w0[j]?.getD 0).toInt

theorem exactPartial_eq_windowTerms (s : State) (i m : Nat) :
    exactPartial s i m = windowTerm s i (2 * m) + windowTerm s i (2 * m + 1) := rfl

/-- Tap `k` stands at window position `delta + k`, over the byte the scalar filter multiplies it with. -/
theorem windowTerm_delta_add {s : State} (h : WindowsMatch s) (hm : delta s.tapsnum ≤ s.src.toNat) (i : Nat) {k : Nat}
    (hk : k < s.tapsnum.toNat) (hpos : delta s.tapsnum + k < 12) :
    windowTerm s i (delta s.tapsnum + k) =
      ((Memory.byteAt s.mem (s.src.toNat + i + k)).toNat : Int) * (s.taps[k]?.getD 0).toInt := by
  rw [windowTerm, toInt_getD_w0 h hpos, if_pos (by omega), Nat.add_sub_cancel_left]
  congr 4
  omega

theorem windowTerm_outside {s : State} (h : WindowsMatch s) (i : Nat) {j : Nat} (hj : j < 12)
    (hout : ¬ (delta s.tapsnum ≤ j ∧ j < delta s.tapsnum + s.tapsnum.toNat)) : windowTerm s i j = 0 := by
  rw [windowTerm, toInt_getD_w0 h hj, if_neg hout, mul_zero]

theorem delta_add_tapsnum_le {n : BitVec 4} (h : n = 10 ∨ n = 12) : delta n + n.toNat ≤ 12 := by
  rcases h with rfl | rfl <;> decide

/-- R124: with matching windows the six partial sums of a pixel add up to R101's sum. -/
theorem sum_exactPartial {s : State} (h : WindowsMatch s) (hm : delta s.tapsnum ≤ s.src.toNat) (i : Nat) :
    exactPartial s i 0 + exactPartial s i 1 + exactPartial s i 2 + exactPartial s i 3 + exactPartial s i 4 +
      exactPartial s i 5 = scalarSum s i := by
  have hpos := delta_add_tapsnum_le h.count
  calc
    _ = ∑ j ∈ Finset.range 12, windowTerm s i j := by
      simp only [exactPartial_eq_windowTerms, Finset.sum_range_succ, Finset.sum_range_zero]
      ring
    _ = ∑ j ∈ Finset.Ico (delta s.tapsnum) (delta s.tapsnum + s.tapsnum.toNat), windowTerm s i j := by
      refine (Finset.sum_subset (fun j hj => ?_) fun j hj hout => ?_).symm
      · rw [Finset.mem_Ico] at hj
        exact Finset.mem_range.2 (by omega)
      · exact windowTerm_outside h i (Finset.mem_range.1 hj) fun hin => hout (Finset.mem_Ico.2 hin)
    _ = ∑ k ∈ Finset.range s.tapsnum.toNat,
          ((Memory.byteAt s.mem (s.src.toNat + i + k)).toNat : Int) * (s.taps[k]?.getD 0).toInt := by
      rw [Finset.sum_Ico_eq_sum_range, Nat.add_sub_cancel_left]
      refine Finset.sum_congr rfl fun k hk => windowTerm_delta_add h hm i (Finset.mem_range.1 hk) ?_
      have := Finset.mem_range.1 hk
      omega
    _ = scalarSum s i := rfl

/-- R125, R124: on an exact input every pixel of a tile is the scalar filter's. -/
theorem tilePixel_of_exact {width q n : Nat} {s : State} (h : WindowsMatch s) (hm : delta s.tapsnum ≤ s.src.toNat)
    (hexact : InputExact width s) (hn : n < 4) (hi : 4 * q + n < width) :
    tilePixel s q n = outputPixel (scalarSum s (4 * q + n)) := by
  have lane {m : Nat} (hm : m < 6) := getD_partialSums h q hn hm
  rw [tilePixel, getD_tilePixels _ _ _ _ hn, roundAndNarrow_eq_outputPixel, reduceRow]
  simp (disch := decide) only [lane]
  rw [reduceSix_of_exact (hexact _ hi), outputPixel_sat16, sum_exactPartial h hm]

/-! ### `PackSafe` (R127) -/

/-- R127: the window alone bounds a partial sum, whatever the pixels. -/
theorem exactPartial_bounds (s : State) (i m : Nat) :
    pairLow s.w0 m ≤ exactPartial s i m ∧ exactPartial s i m ≤ pairHigh s.w0 m := by
  obtain ⟨hlow, hhigh⟩ := byte_mul_bounds
    (Memory.byteAt s.mem (s.src.toNat - delta s.tapsnum + i + 2 * m)) (s.w0[2 * m]?.getD 0).toInt
  obtain ⟨hlow', hhigh'⟩ := byte_mul_bounds
    (Memory.byteAt s.mem (s.src.toNat - delta s.tapsnum + i + 2 * m + 1)) (s.w0[2 * m + 1]?.getD 0).toInt
  simp only [pairLow, pairHigh, exactPartial, minLane_eq, maxLane_eq]
  omega

theorem pairLow_nonpos (w0 : Vector Elem 16) (m : Nat) : pairLow w0 m ≤ 0 := by
  simp only [pairLow, minLane_eq]; omega

theorem pairHigh_nonneg (w0 : Vector Elem 16) (m : Nat) : 0 ≤ pairHigh w0 m := by
  simp only [pairHigh, maxLane_eq]; omega

theorem windowSafe_iff (w0 : Vector Elem 16) :
    windowSafe w0 = true ↔
      (∀ m < 6, pairHigh w0 m ≤ 32767 ∧ -32768 ≤ pairLow w0 m) ∧
      pairHigh w0 0 + pairHigh w0 1 + pairHigh w0 4 + pairHigh w0 5 + min (pairHigh w0 2) (pairHigh w0 3) ≤ 32767 ∧
      -32768 ≤ pairLow w0 0 + pairLow w0 1 + pairLow w0 4 + pairLow w0 5 + min (pairLow w0 2) (pairLow w0 3) := by
  simp [windowSafe, minLane_eq, and_assoc]

/-- R127: each sum R125 bounds lies between the window's own bounds, the shorter sums because the missing bounds are no smaller
(no greater) than 0. -/
theorem inputExact_of_windowSafe {s : State} (h : windowSafe s.w0 = true) (width : Nat) : InputExact width s := by
  intro i _
  obtain ⟨hpair, hhigh, hlow⟩ := (windowSafe_iff _).1 h
  have bounds (m : Nat) : pairLow s.w0 m ≤ exactPartial s i m ∧ exactPartial s i m ≤ pairHigh s.w0 m ∧
      pairLow s.w0 m ≤ 0 ∧ 0 ≤ pairHigh s.w0 m :=
    ⟨(exactPartial_bounds s i m).1, (exactPartial_bounds s i m).2, pairLow_nonpos _ m, pairHigh_nonneg _ m⟩
  have fits (m : Nat) (hm : m < 6) : fits16 (exactPartial s i m) := by
    have := bounds m
    have := hpair m hm
    exact ⟨by omega, by omega⟩
  have b0 := bounds 0
  have b1 := bounds 1
  have b2 := bounds 2
  have b3 := bounds 3
  have b4 := bounds 4
  have b5 := bounds 5
  refine ⟨⟨fits 0 (by decide), fits 1 (by decide), fits 2 (by decide), fits 3 (by decide), fits 4 (by decide),
    fits 5 (by decide)⟩, ?_, ?_, ?_, ?_⟩
  · constructor <;> omega
  · constructor <;> omega
  · constructor <;> omega
  · rw [minLane_eq]
    constructor <;> omega

/-- R127: a `PackSafe` tap set makes every input of the packed windows exact. -/
theorem inputExact_of_packSafe {s : State} (h : WindowsMatch s) (hsafe : packSafe s.tapsnum s.taps = true) (width : Nat) :
    InputExact width s := by
  rw [packSafe, Bool.and_eq_true, ← h.first] at hsafe
  exact inputExact_of_windowSafe hsafe.2 width

end Sys2Proof.Machine
end

section
/-! PROOF. What the two filter commands leave in memory, pixel by pixel (R101, R141), and that this determines the memory; then the
contract of the vector filter (R126). -/

namespace Sys2Proof.Machine

/-! ### The memory a filter command leaves -/

/-- `m` is the memory of `s` with output pixel `i` at `DST + i` and nothing else changed, in canonical form. -/
structure FilterOutput (width : Nat) (s : State) (pixel : Nat → Byte) (m : Memory) : Prop where
  inside : ∀ i < width, Memory.lookup m (s.dst.toNat + i) = some (pixel i)
  outside : ∀ a, OutsideOutput width s a → Memory.lookup m a = Memory.lookup s.mem a
  canonical : Memory.wf s.mem → Memory.wf m

theorem FilterOutput.byteAt {width : Nat} {s : State} {pixel : Nat → Byte} {m : Memory} (h : FilterOutput width s pixel m)
    {i : Nat} (hi : i < width) : Memory.byteAt m (s.dst.toNat + i) = pixel i := by
  rw [Memory.byteAt, h.inside i hi, Option.getD_some]

/-- The pixels determine the memory, entry by entry. -/
theorem FilterOutput.unique {width : Nat} {s : State} {pixel pixel' : Nat → Byte} {m m' : Memory} (hs : Memory.wf s.mem)
    (h : FilterOutput width s pixel m) (h' : FilterOutput width s pixel' m') (hp : ∀ i < width, pixel i = pixel' i) :
    m = m' := by
  refine ext_of_lookup (h.canonical hs) (h'.canonical hs) fun a => ?_
  by_cases ha : OutsideOutput width s a
  · rw [h.outside a ha, h'.outside a ha]
  · obtain ⟨i, rfl⟩ : ∃ i, a = s.dst.toNat + i := ⟨a - s.dst.toNat, by omega⟩
    have hi : i < width := by omega
    rw [h.inside i hi, h'.inside i hi, hp i hi]

/-! ### `FIRS` (R101) -/

theorem execFirs_output {width : Nat} {s : State} (hw : 0 < width) (h : FirsReady width s) :
    ∃ m, execFirs width s = .next (State.withMemory m s) ∧
      FilterOutput width s (fun i => outputPixel (scalarSum s i)) m := by
  have hlen := length_activeTaps h.count
  obtain ⟨m, hrow, hpixel⟩ := filterRow_ok (p := s.platform) (ts := State.activeTaps s) (m := s.mem)
    (by rw [hlen]; exact h.lent.readable) h.lent.writable (by rw [hlen]; exact h.placed.disjoint)
  obtain ⟨hframe, hwf, -⟩ := filterRow_frame hrow
  refine ⟨m, by rw [execFirs_posed hw h.toFirsPosed, hrow]; rfl, fun i hi => ?_, hframe, hwf⟩
  rw [hpixel i hi, dotValue_eq_scalarSum h.count]

/-! ### `FIRV` (R141, R142) -/

/-- R142: the doubling recursion runs its tiles in ascending order. -/
theorem block_eq_tiles (ctx : TileContext) (level s d : Nat) (m : Memory) :
    block ctx level s d m = tiles ctx (2 ^ level) s d m := by
  induction level generalizing s d m with
  | zero =>
    rw [block, pow_zero]
    simp only [tiles]
    cases tile ctx s d m <;> rfl
  | succ level ih =>
    rw [block, pow_succ, Nat.mul_two, tiles_add, ih]
    cases tiles ctx (2 ^ level) s d m with
    | error c => rfl
    | ok m' => exact ih _ _ _

theorem exists_blockLevel {width : Nat} (h : width ∈ Config.widths) : ∃ level, blockLevel width = some level := by
  rw [← Option.ne_none_iff_exists', Ne, blockLevel_none_iff]
  exact not_not.2 h

/-- A command that meets the host's duties but R56's is not refused: what it answers is what its tiles do. -/
theorem execFirv_posed {width : Nat} {s : State} (h : FirvPosed width s) :
    ∃ count, width = 4 * count ∧
      execFirv width s = finish width s (tiles (tileContext s) count s.src.toNat s.dst.toNat s.mem) := by
  obtain ⟨level, hl⟩ := exists_blockLevel h.supported
  have hr : firvRefusal width s = none :=
    (firvRefusal_none_iff (width_pos_of_supported h.supported)).2 ⟨h.addresses, h.margin, h.placed⟩
  refine ⟨2 ^ level, blockLevel_width hl, ?_⟩
  rw [← block_eq_tiles]
  simp [execFirv, hl, h.valid, hr]

theorem tileValue_eq_tilePixel {s : State} (hm : delta s.tapsnum ≤ s.src.toNat) (q : Nat) {n : Nat} (hn : n < 4) :
    (tileValue (tileContext s) s.mem (s.src.toNat + 4 * q))[n]? = some (tilePixel s q n) := by
  have haddr : s.src.toNat + 4 * q - delta s.tapsnum = s.src.toNat - delta s.tapsnum + 4 * q := by omega
  rw [List.getElem?_eq_getElem hn, tilePixel, ← haddr]
  exact congrArg some (List.getElem_eq_getD 0)

/-- R142 for a command that meets all the host's duties: output pixel `i` is pixel `i % 4` of tile `i / 4`. -/
theorem execFirv_output {width : Nat} {s : State} (h : FirvReady width s) :
    ∃ m, execFirv width s = .next (State.withMemory m s) ∧ FilterOutput width s (fun i => tilePixel s (i / 4) (i % 4)) m := by
  obtain ⟨count, rfl, hexec⟩ := execFirv_posed h.toFirvPosed
  obtain ⟨m, htiles, hpixel⟩ :=
    tiles_ok (ctx := tileContext s) (m := s.mem) h.margin h.lent.readable h.lent.writable h.placed.disjoint
  obtain ⟨hframe, hwf, -⟩ := tiles_frame htiles
  refine ⟨m, by rw [hexec, htiles]; rfl, fun i hi => ?_, hframe, hwf⟩
  have hn : i % 4 < 4 := Nat.mod_lt _ (by decide)
  rw [← tileValue_eq_tilePixel h.margin _ hn, ← hpixel (i / 4) (by omega) (i % 4) hn]
  congr 1
  omega

/-! ### The scalar duties under the vector ones (R58, R59) -/

/-- Valid windows and `FIRV`'s duties give `FIRS`'s: its read footprint lies within the vector one. -/
theorem firsReady_of_firvReady {width : Nat} {s : State} (h : FirvReady width s) (hwin : WindowsMatch s) :
    FirsReady width s := by
  have hmargin := h.margin
  have hspan := delta_add_tapsnum_le hwin.count
  obtain ⟨hreads, hwrites, hdisjoint⟩ := h.placed
  refine { count := hwin.count, addresses := h.addresses, written := hwin.written,
           placed := ⟨by omega, hwrites, by omega⟩, lent := ⟨fun j hj => ?_, h.lent.writable⟩ }
  have hread := h.lent.readable (delta s.tapsnum + j) (by omega)
  rwa [← Nat.add_assoc, Nat.sub_add_cancel hmargin] at hread

/-! ### The obligation -/

/-- Settles O36: both commands leave the scalar pixels in memory, the vector one by R125, and those determine the next state. -/
theorem firvMeetsItsContract : Obligations.FirvMeetsItsContract := by
  intro width s hinv h hinput
  have hwin := hinv.windows h.valid
  have hexact : InputExact width s := hinput.elim id fun hsafe => inputExact_of_packSafe hwin hsafe width
  obtain ⟨m, hfirv, hvector⟩ := execFirv_output h
  obtain ⟨m', hfirs, hscalar⟩ :=
    execFirs_output (width_pos_of_supported h.supported) (firsReady_of_firvReady h hwin)
  have hmem : m = m' := hvector.unique hinv.memCanonical hscalar fun i hi => by
    have hi' : 4 * (i / 4) + i % 4 = i := Nat.div_add_mod i 4
    rw [tilePixel_of_exact hwin h.margin hexact (Nat.mod_lt _ (by decide)) (by omega), hi']
  refine ⟨State.withMemory m s, hfirv, by rw [hmem]; exact hfirs, rfl, fun i hi => ?_⟩
  rw [withMemory_mem, hmem, hscalar.byteAt hi, toNat_outputPixel, roundedPixel]

end Sys2Proof.Machine
end

section
/-! PROOF. `FIRV` and its tiling (spec/43_vector_tiling.md): how far its tiles run, the aborts it can end with, and its two halves;
then the obligations on `FIRV`. -/

namespace Sys2Proof.Machine

/-! ### The tiles up to their first refused access (R145, item 4) -/

/-- After tiles that go through, a run one tile longer answers what that tile does. -/
theorem tiles_succ_of_ok {ctx : TileContext} {q s d : Nat} {m m' : Memory} (hm : tiles ctx q s d m = .ok m') :
    tiles ctx (q + 1) s d m = tile ctx (s + 4 * q) (d + 4 * q) m' := by
  rw [tiles_add, hm]
  simp only [tiles]
  cases tile ctx (s + 4 * q) (d + 4 * q) m' <;> rfl

/-- A run of tiles all of whose accesses are allowed goes through, wherever its output lies. -/
theorem exists_tiles_ok {ctx : TileContext} {q s d : Nat} (hδ : ctx.delta ≤ s)
    (h : ∀ q' < q, (∀ n < 4, Platform.canWrite ctx.platform (d + 4 * q' + n) = true) ∧
      ∀ j < 17, Platform.canRead ctx.platform (s - ctx.delta + 4 * q' + j) = true)
    (m : Memory) : ∃ m', tiles ctx q s d m = .ok m' := by
  induction q with
  | zero => exact ⟨m, rfl⟩
  | succ q ih =>
    obtain ⟨m', hm⟩ := ih fun q' hq => h q' (hq.trans q.lt_succ_self)
    obtain ⟨hw, hr⟩ := h q q.lt_succ_self
    rw [← Nat.sub_add_comm hδ] at hr
    exact ⟨_, (tiles_succ_of_ok hm).trans (tile_ok hr hw)⟩

theorem tile_srcMargin {ctx : TileContext} {s j : Nat} (hj : j < 17)
    (h : Platform.canRead ctx.platform (s - ctx.delta + j) = false) (d : Nat) (m : Memory) :
    tile ctx s d m = .error .srcMargin := by
  rcases tile_cases ctx s d m with ⟨-, hr, -⟩ | ⟨htile, -⟩ | ⟨-, hr, -⟩
  · simp [hr j hj] at h
  · exact htile
  · simp [hr j hj] at h

theorem tile_dstAccess {ctx : TileContext} {s d n : Nat}
    (hr : ∀ j < 17, Platform.canRead ctx.platform (s - ctx.delta + j) = true) (hn : n < 4)
    (h : Platform.canWrite ctx.platform (d + n) = false) (m : Memory) : tile ctx s d m = .error .dstAccess := by
  rcases tile_cases ctx s d m with ⟨-, -, hw⟩ | ⟨-, j, hj, hrj⟩ | ⟨htile, -⟩
  · simp [hw n hn] at h
  · simp [hr j hj] at hrj
  · exact htile

/-- A run of tiles ends with the cause of its first tile that fails. -/
theorem tiles_error_of_tile {ctx : TileContext} {q s d : Nat} {m m' : Memory} {c : Cause}
    (hm : tiles ctx q s d m = .ok m') (h : tile ctx (s + 4 * q) (d + 4 * q) m' = .error c) (n : Nat) :
    tiles ctx (q + 1 + n) s d m = .error c := by
  rw [tiles_add, tiles_succ_of_ok hm, h]

/-- A run of tiles that goes through does so in two parts. -/
theorem exists_tiles_of_add {ctx : TileContext} {k n s d : Nat} {m m' : Memory} (h : tiles ctx (k + n) s d m = .ok m') :
    ∃ m₁, tiles ctx k s d m = .ok m₁ ∧ tiles ctx n (s + 4 * k) (d + 4 * k) m₁ = .ok m' := by
  rw [tiles_add] at h
  cases hk : tiles ctx k s d m with
  | error c => rw [hk] at h; cases h
  | ok m₁ => rw [hk] at h; exact ⟨m₁, rfl, h⟩

/-! ### What `FIRV` answers (R141, R145) -/

theorem exec_firv_windowsInvalid {width : Nat} {s : State} (hw : width ∈ Config.widths) (hv : s.wvalid = false) :
    exec (.firv width) s = .next (State.aborted .windowsInvalid s) := by
  obtain ⟨level, hl⟩ := exists_blockLevel hw
  simp [exec, execFirv, hl, hv, raise_eq]

theorem FirvReady.exists_tiles {count : Nat} {s : State} (h : FirvReady (4 * count) s) :
    ∃ m, tiles (tileContext s) count s.src.toNat s.dst.toNat s.mem = .ok m := by
  obtain ⟨m, htiles, -⟩ :=
    tiles_ok (ctx := tileContext s) (m := s.mem) h.margin h.lent.readable h.lent.writable h.placed.disjoint
  exact ⟨m, htiles⟩

/-- A command that is not refused completes when its tiles, counted by its width, go through. -/
theorem execFirv_tiles_ok {count : Nat} {s : State} {m : Memory} (h : FirvPosed (4 * count) s)
    (htiles : tiles (tileContext s) count s.src.toNat s.dst.toNat s.mem = .ok m) :
    execFirv (4 * count) s = .next (State.withMemory m s) := by
  obtain ⟨count', hcount, hexec⟩ := execFirv_posed h
  obtain rfl : count = count' := by omega
  rw [hexec, htiles]; rfl

/-- A tile stopped by a memory access, after tiles that go through, ends the command as R179 says. -/
theorem execFirv_abortedMidCommand {width q : Nat} {s : State} {m : Memory} {c : Cause} (h : FirvPosed width s)
    (hq : 4 * q < width) (hm : tiles (tileContext s) q s.src.toNat s.dst.toNat s.mem = .ok m)
    (htile : tile (tileContext s) (s.src.toNat + 4 * q) (s.dst.toNat + 4 * q) m = .error c) :
    ∃ t, execFirv width s = .next t ∧ AbortedMidCommand c width s t := by
  obtain ⟨count, rfl, hexec⟩ := execFirv_posed h
  obtain ⟨n, rfl⟩ : ∃ n, count = q + 1 + n := ⟨count - (q + 1), by omega⟩
  exact ⟨_, by rw [hexec, tiles_error_of_tile hm htile n]; rfl, abortedMidCommand_outputUnspecified c _ s⟩

/-! ### The two halves of a command (R143) -/

/-- R143's `wr SRC, SRC + w` and `wr DST, DST + w`, once both registers have been written. -/
def State.advancedBy (w : Nat) (s : State) : State :=
  { s with src := s.src + BitVec.ofNat 64 w, dst := s.dst + BitVec.ofNat 64 w }

/-- An `AW`-bit value reaches the register uncut. -/
theorem csrWrite_address {s : State} {v : HostValue} (ha : s.abort = false) (hv : v.toNat < 2 ^ s.platform.aw) (r : Reg) :
    csrWrite (regNumber r) v s = writeRegister (regNumber r) v s :=
  csrWrite_regNumber ha (hv.trans_le (Nat.pow_le_pow_right (by decide) (le_max_left _ _))) r

theorem csrWrite_src_of_written {s : State} {v : HostValue} (ha : s.abort = false) (hs : s.srcWritten = true)
    (hv : v.toNat < 2 ^ s.platform.aw) : csrWrite 2 v s = .next { s with src := v } := by
  have hwrite : State.writeSrc v s = { s with src := v } := by rw [State.writeSrc, truncTo_of_lt hv, ← hs]
  exact (csrWrite_address ha hv .src).trans (congrArg _ hwrite)

theorem csrWrite_dst_of_written {s : State} {v : HostValue} (ha : s.abort = false) (hd : s.dstWritten = true)
    (hv : v.toNat < 2 ^ s.platform.aw) : csrWrite 3 v s = .next { s with dst := v } := by
  have hwrite : State.writeDst v s = { s with dst := v } := by rw [State.writeDst, truncTo_of_lt hv, ← hd]
  exact (csrWrite_address ha hv .dst).trans (congrArg _ hwrite)

theorem toNat_add_ofNat_of_lt {v : HostValue} {w : Nat} (h : v.toNat + w < 2 ^ 64) :
    (v + BitVec.ofNat 64 w).toNat = v.toNat + w := by
  rw [BitVec.toNat_add, BitVec.toNat_ofNat, Nat.add_mod_mod, Nat.mod_eq_of_lt h]

/-- The first half of a placed command is placed. -/
theorem FirvPosed.firstHalf {w : Nat} {s : State} (h : FirvPosed (2 * w) s) (hw : w ∈ Config.widths) : FirvPosed w s := by
  obtain ⟨hreads, hwrites, hdisjoint⟩ := h.placed
  exact ⟨hw, h.valid, h.addresses, h.margin, by omega, by omega, by omega⟩

/-- A placed command leaves room to advance both addresses by half its width. -/
theorem FirvPosed.advance_lt {w : Nat} {s : State} (h : FirvPosed (2 * w) s) (hw : 0 < w) :
    s.src.toNat + w < 2 ^ s.platform.aw ∧ s.dst.toNat + w < 2 ^ s.platform.aw := by
  have hmargin := h.margin
  have hδ : delta s.tapsnum ≤ 1 := by rw [delta]; split <;> omega
  obtain ⟨hreads, hwrites, -⟩ := h.placed
  omega

theorem toNat_advancedBy {w : Nat} {s : State} (h : FirvPosed (2 * w) s) (hw : 0 < w) (haw : s.platform.aw ≤ 64) :
    (State.advancedBy w s).src.toNat = s.src.toNat + w ∧ (State.advancedBy w s).dst.toNat = s.dst.toNat + w := by
  obtain ⟨hsrc, hdst⟩ := h.advance_lt hw
  have hpow : 2 ^ s.platform.aw ≤ 2 ^ 64 := Nat.pow_le_pow_right (by decide) haw
  exact ⟨toNat_add_ofNat_of_lt (hsrc.trans_le hpow), toNat_add_ofNat_of_lt (hdst.trans_le hpow)⟩

/-- The second half of a placed command is placed. -/
theorem FirvPosed.secondHalf {w : Nat} {s : State} (h : FirvPosed (2 * w) s) (hw : w ∈ Config.widths)
    (haw : s.platform.aw ≤ 64) : FirvPosed w (State.advancedBy w s) := by
  have hmargin := h.margin
  obtain ⟨hreads, hwrites, hdisjoint⟩ := h.placed
  obtain ⟨hsrc, hdst⟩ := toNat_advancedBy h (width_pos_of_supported hw) haw
  have hstart : s.src.toNat + w - delta s.tapsnum = s.src.toNat - delta s.tapsnum + w := Nat.sub_add_comm hmargin
  refine ⟨hw, h.valid, ⟨h.addresses.src, h.addresses.dst⟩, ?_, ?_⟩ <;> rw [hsrc]
  · exact hmargin.trans (Nat.le_add_right _ _)
  · rw [hdst]
    show FootprintsPlaced s.platform (s.src.toNat + w - delta s.tapsnum) (w + 13) (s.dst.toNat + w) w
    rw [hstart]
    exact ⟨by omega, by omega, by omega⟩

theorem FirvPosed.withMemory {width : Nat} {s : State} (h : FirvPosed width s) (m : Memory) :
    FirvPosed width (State.withMemory m s) :=
  ⟨h.supported, h.valid, ⟨h.addresses.src, h.addresses.dst⟩, h.margin, h.placed⟩

/-! ### The obligations -/

/-- Settles O31: the static aborts, the outputs and frame of an accepted command, and the first tile that fails, found by running the
tiles before it. -/
theorem firvFollowsItsPseudocode : Obligations.FirvFollowsItsPseudocode := by
  refine ⟨fun width s hw => exec_firv_unsupported hw s, fun width s hw hv => exec_firv_windowsInvalid hw hv,
    fun width s h => ?_, fun width s q h hq hpre => ?_⟩
  · obtain ⟨m, hexec, hout⟩ := execFirv_output h
    refine ⟨_, hexec, rfl, fun q n hq hn => ?_, fun a ha => byteAt_of_lookup (hout.outside a ha)⟩
    obtain ⟨count, rfl, -⟩ := execFirv_posed h.toFirvPosed
    rw [withMemory_mem, Nat.add_assoc, hout.byteAt (by omega), Nat.mul_add_div (by decide), Nat.mul_add_mod,
      Nat.div_eq_of_lt hn, Nat.mod_eq_of_lt hn, Nat.add_zero]
  · obtain ⟨m, hm⟩ := exists_tiles_ok (ctx := tileContext s) h.margin hpre s.mem
    rw [← Nat.sub_add_comm h.margin]
    refine ⟨fun ⟨j, hj, hr⟩ => ?_, fun hr ⟨n, hn, hw⟩ => ?_⟩
    · exact execFirv_abortedMidCommand h hq hm (tile_srcMargin hj hr _ _)
    · exact execFirv_abortedMidCommand h hq hm (tile_dstAccess hr hn hw _)

/-- Settles O32: each level runs the level below twice, and two runs of tiles one after the other are one run. -/
theorem blockIsItsUnrolledForm : Obligations.BlockIsItsUnrolledForm := block_eq_tiles

/-- Settles O33: the tiles of the wide command are those of its two halves, and the memory after the first half is all that passes
from one to the other. -/
theorem compositionLaw : Obligations.CompositionLaw := by
  intro w s hw hinv ha h
  have hw : w ∈ Config.widths := List.mem_append_left [64] hw
  have haw := hinv.addressWidth.2
  have hfirst := h.firstHalf hw
  have hsecond := h.secondHalf hw haw
  obtain ⟨hsrclt, hdstlt⟩ := h.advance_lt (width_pos_of_supported hw)
  obtain ⟨hsrc, hdst⟩ := toNat_advancedBy h.toFirvPosed (width_pos_of_supported hw) haw
  obtain ⟨k, rfl, -⟩ := execFirv_posed hfirst
  have hwidth : 2 * (4 * k) = 4 * (k + k) := by omega
  rw [hwidth] at h ⊢
  obtain ⟨m, hwhole⟩ := h.exists_tiles
  obtain ⟨m₁, hleft, hright⟩ := exists_tiles_of_add hwhole
  rw [← hsrc, ← hdst] at hright
  exact ⟨_, _, _, _, _, execFirv_tiles_ok h.toFirvPosed hwhole, execFirv_tiles_ok hfirst hleft,
    csrWrite_src_of_written ha h.addresses.src (hsrc.trans_lt hsrclt),
    csrWrite_dst_of_written ha h.addresses.dst (hdst.trans_lt hdstlt),
    execFirv_tiles_ok (hsecond.withMemory m₁) hright, rfl, ha⟩

end Sys2Proof.Machine
end

section
/-! PROOF. Contract violations (spec/60_exceptions.md): which command records which cause, what an abort leaves of the state it was
taken in, and what an aborted block keeps; then the obligations on aborts. -/

namespace Sys2Proof.Machine

/-! ### The commands that record a cause anew (R171) -/

theorem mem_abortCauses_of_recorded {i : Instr} {s t : State} {c : Cause} (h : exec i s = .next t)
    (ht : t.cause = causeCode c) (hs : s.cause ≠ causeCode c) : c ∈ abortCauses i :=
  by_contra fun hc => exec_cause_ne h hc hs ht

theorem badTapsnum_not_mem_abortCauses_firv (width : Nat) : Cause.badTapsnum ∉ abortCauses (.firv width) := by
  rw [abortCauses]; split_ifs <;> decide

theorem unsupportedWidth_mem_abortCauses {i : Instr} (h : Cause.unsupportedWidth ∈ abortCauses i) :
    ∃ width, i = .firv width ∧ width ∉ Config.widths := by
  cases i with
  | pack => exact absurd h (by decide)
  | firs width => simp [abortCauses] at h
  | firv width =>
    refine ⟨width, rfl, fun hw => ?_⟩
    rw [abortCauses, if_pos hw] at h
    exact absurd h (by decide)

theorem windowsInvalid_mem_abortCauses {i : Instr} (h : Cause.windowsInvalid ∈ abortCauses i) :
    ∃ width, i = .firv width ∧ width ∈ Config.widths := by
  cases i with
  | pack => exact absurd h (by decide)
  | firs width => simp [abortCauses] at h
  | firv width =>
    refine ⟨width, rfl, by_contra fun hw => ?_⟩
    rw [abortCauses, if_neg hw] at h
    exact absurd h (by decide)

/-- R176: with valid windows `FIRV` has no reason to record `WINDOWS_INVALID`. -/
theorem wvalid_false_of_windowsInvalid {width : Nat} {s t : State} (h : exec (.firv width) s = .next t)
    (ht : t.cause = causeCode .windowsInvalid) (hs : s.cause ≠ causeCode .windowsInvalid) : s.wvalid = false := by
  rcases execFirv_cases h with ⟨-, rfl⟩ | ⟨level, -, hv, -⟩ | ⟨level, -, -, -, ⟨m, -, rfl⟩ | ⟨c, -, hc, rfl⟩⟩
  · simp [causeCode] at ht
  · exact hv
  · exact absurd ht hs
  · cases causeCode_injective ht
    simp at hc

/-! ### The state an abort is taken in (R178, R179) -/

/-- A command that takes an abort has changed nothing else, or is a filter stopped by a memory access. -/
theorem exec_takes_abort {i : Instr} {s t : State} (ha : s.abort = false) (h : exec i s = .next t)
    (ht : t.abort = true) :
    (∃ c : Cause, c ≠ .srcMargin ∧ c ≠ .dstAccess ∧ t = State.aborted c s) ∨
    (∃ (c : Cause) (width : Nat), (c = .srcMargin ∨ c = .dstAccess) ∧ (i = .firs width ∨ i = .firv width) ∧
      t = State.aborted c (State.outputUnspecified width s)) := by
  cases i with
  | pack =>
    rcases execPack_cases h with ⟨-, rfl⟩ | ⟨-, rfl⟩ | ⟨-, -, rfl⟩
    · exact .inl ⟨.badTapsnum, by decide, by decide, rfl⟩
    · exact .inl ⟨.tapRange, by decide, by decide, rfl⟩
    · simp [ha] at ht
  | firs width =>
    rcases execFirs_cases h with ⟨-, rfl⟩ | ⟨-, -, ⟨m, -, rfl⟩ | ⟨c, -, hc, rfl⟩⟩
    · exact .inl ⟨.badTapsnum, by decide, by decide, rfl⟩
    · simp [ha] at ht
    · exact .inr ⟨c, width, hc, .inl rfl, rfl⟩
  | firv width =>
    rcases execFirv_cases h with ⟨-, rfl⟩ | ⟨level, -, -, rfl⟩ | ⟨level, -, -, -, ⟨m, -, rfl⟩ | ⟨c, -, hc, rfl⟩⟩
    · exact .inl ⟨.unsupportedWidth, by decide, by decide, rfl⟩
    · exact .inl ⟨.windowsInvalid, by decide, by decide, rfl⟩
    · simp [ha] at ht
    · exact .inr ⟨c, width, hc, .inr rfl, rfl⟩

/-- A register write that takes an abort is illegal, carries an illegal command word, or runs the command that takes it. -/
theorem writeRegister_takes_abort {n : Nat} {v : HostValue} {s t : State} (ha : s.abort = false)
    (h : writeRegister n v s = .next t) (ht : t.abort = true) :
    (∃ c, (c = .illegalReg ∨ c = .illegalCmd) ∧ t = State.aborted c s) ∨
    (∃ i, n = 0 ∧ decode v = .ok i ∧ exec i s = .next t) := by
  rcases writeRegister_cases n v s with ⟨hn, hw⟩ | ⟨-, hw⟩ | ⟨-, hw⟩ | ⟨-, hw⟩ | ⟨k, -, hw⟩ | hw <;> rw [hw] at h
  · rcases issueCommand_cases v s with ⟨i, hd, hi⟩ | ⟨-, hi⟩ <;> rw [hi] at h
    · exact .inr ⟨i, ((regOf_eq_some_iff n .cmd).1 hn).symm, hd, h⟩
    · cases h; exact .inl ⟨.illegalCmd, .inr rfl, rfl⟩
  case inr.inr.inr.inr.inr => cases h; exact .inl ⟨.illegalReg, .inl rfl, rfl⟩
  all_goals
    cases h
    simp [ha] at ht

theorem csrRead_takes_abort {n : Nat} {s t : State} (ha : s.abort = false) (h : csrRead n s = .next t)
    (ht : t.abort = true) : t = State.aborted .illegalReg (State.returning 0 s) := by
  rcases csrRead_cases n s with ⟨r, -, -, hr⟩ | ⟨-, hr⟩ <;> rw [hr] at h
  · cases h; simp [ha] at ht
  · rw [readIllegal_live ha] at h; cases h; rfl

/-! ### What an aborted block keeps (R40, R182) -/

/-- A register read touches what the host has been told, and nothing of the block. -/
theorem readRegister_eq (r : Reg) (s : State) :
    ∃ k answers, readRegister r s = { s with freeNext := k, returned := answers } := by
  unfold readRegister
  split
  · exact ⟨_, _, rfl⟩
  · exact ⟨_, _, rfl⟩

/-- R182: of an aborted block every operation but `Reset` keeps all registers, and memory too unless the host stores to it. -/
theorem perform_keeps_aborted_block {op : HostOp} {s t : State} (ha : s.abort = true) (hop : op ≠ .reset)
    (h : perform op s = .next t) :
    ∃ m k answers, t = { s with mem := m, freeNext := k, returned := answers } ∧
      ((∀ a bytes, op ≠ .memStore a bytes) → m = s.mem) := by
  cases op with
  | csrWrite n v =>
    rw [perform, csrWrite_aborted ha] at h
    cases h; exact ⟨_, _, _, rfl, fun _ => rfl⟩
  | csrRead n =>
    rw [perform] at h
    rcases csrRead_cases n s with ⟨r, -, -, hr⟩ | ⟨-, hr⟩ <;> rw [hr] at h
    · obtain ⟨k, answers, heq⟩ := readRegister_eq r s
      rw [heq] at h
      cases h; exact ⟨_, _, _, rfl, fun _ => rfl⟩
    · rw [readIllegal_aborted ha] at h
      cases h; exact ⟨_, _, _, rfl, fun _ => rfl⟩
  | reset => exact absurd rfl hop
  | memStore a bytes => exact ⟨_, _, _, hostStore_next h, fun hno => absurd rfl (hno a bytes)⟩
  | memLoad a n => exact ⟨_, _, _, hostLoad_next h, fun _ => rfl⟩

/-! ### The obligations -/

/-- Settles O37: both commands test `TAPSNUM` first, and `BAD_TAPSNUM` is no cause of `FIRV`. -/
theorem badTapsnumIsRaisedByPackAndFirsOnly : Obligations.BadTapsnumIsRaisedByPackAndFirsOnly := by
  refine ⟨fun width s h10 h12 => ⟨execPack_illegal_count h10 h12, execFirs_illegal_count h10 h12 width⟩,
    fun width s t h ht => by_contra fun hs => ?_⟩
  exact badTapsnum_not_mem_abortCauses_firv width (mem_abortCauses_of_recorded h ht hs)

/-- Settles O38: `UNSUPPORTED_WIDTH` is among the causes of `FIRV` with an unsupported width alone. -/
theorem unsupportedWidthIsRaisedByFirvOnly : Obligations.UnsupportedWidthIsRaisedByFirvOnly :=
  ⟨fun _ s hw => exec_firv_unsupported hw s,
    fun _ _ _ h ht hs => unsupportedWidth_mem_abortCauses (mem_abortCauses_of_recorded h ht hs)⟩

/-- Settles O39: `WINDOWS_INVALID` is among the causes of `FIRV` with a supported width alone, which tests `WVALID` before it can
record anything else. -/
theorem windowsInvalidAborts : Obligations.WindowsInvalidAborts := by
  refine ⟨fun width s hw hv => exec_firv_windowsInvalid hw hv, fun i s t h ht hs => ?_⟩
  obtain ⟨width, rfl, hw⟩ := windowsInvalid_mem_abortCauses (mem_abortCauses_of_recorded h ht hs)
  exact ⟨width, rfl, hw, wvalid_false_of_windowsInvalid h ht hs⟩

/-- Settles O40, by cases on the host operation: only register accesses abort, and only a filter command aborts after it has begun to
write. -/
theorem abortsArePrecise : Obligations.AbortsArePrecise := by
  intro op s t ha h ht
  cases op with
  | csrWrite n v =>
    rw [perform, csrWrite_live ha] at h
    rcases writeRegister_takes_abort ha h ht with ⟨c, hc, rfl⟩ | ⟨i, rfl, hd, hexec⟩
    · exact .inl ⟨c, [], by rintro rfl; simp at hc, by rintro rfl; simp at hc, by simp [State.aborted]⟩
    · rcases exec_takes_abort ha hexec ht with ⟨c, hsrc, hdst, rfl⟩ | ⟨c, width, hc, hi, rfl⟩
      · exact .inl ⟨c, [], hsrc, hdst, by simp [State.aborted]⟩
      · refine .inr ⟨c, width, v, hc, rfl, ?_, abortedMidCommand_outputUnspecified c width s⟩
        rcases hi with rfl | rfl
        · exact .inl hd
        · exact .inr hd
  | csrRead n => exact .inl ⟨.illegalReg, [0], by decide, by decide, csrRead_takes_abort ha h ht⟩
  | reset => cases h; simp at ht
  | memStore a bytes => cases hostStore_next h; simp [ha] at ht
  | memLoad a n => cases hostLoad_next h; simp [ha] at ht

/-- Settles O41: the step idles or performs an operation that keeps the aborted block, and the host's index is no part of the block. -/
theorem onlyResetLeavesAnAbort : Obligations.OnlyResetLeavesAnAbort := by
  intro s t ha h hreset
  rcases step_cases h with ⟨-, rfl⟩ | ⟨op, u, hop, hu, rfl⟩
  · exact ⟨ha, rfl, rfl, rfl, rfl, rfl, rfl, rfl, rfl, rfl, rfl, rfl, fun _ => rfl⟩
  · obtain ⟨m, k, answers, rfl, hm⟩ := perform_keeps_aborted_block ha (fun heq => hreset (heq ▸ hop)) hu
    exact ⟨ha, rfl, rfl, rfl, rfl, rfl, rfl, rfl, rfl, rfl, rfl, rfl,
      fun hno => hm fun a bytes heq => hno a bytes (heq ▸ hop)⟩

end Sys2Proof.Machine
end

section
/-! PROOF. What `Reset` leaves of the block (R200, R38); then the obligation of spec/70_reset_and_hazards.md on the operation. -/

namespace Sys2Proof.Machine

/-! ### The block after `Reset`, whatever it was before -/

@[simp] theorem perform_reset (s : State) : perform .reset s = .next (State.blockReset s) := rfl

theorem statusWord_blockReset (s : State) : statusWord (State.blockReset s) = 0 := by simp [statusWord]

/-- The same registers are unspecified after `Reset` as in `State.reset`, whatever state it was issued in. -/
theorem unspecified_blockReset (s : State) (r : Reg) :
    unspecified (State.blockReset s) r = unspecified State.reset r := by cases r <;> rfl

/-! ### The obligation -/

/-- Settles O12: the state after `Reset` field by field; every other operation keeps an aborted block aborted. -/
theorem resetOperationClearsTheBlock : Obligations.ResetOperationClearsTheBlock := by
  refine fun s => ⟨⟨State.blockReset s, perform_reset s, ?_⟩, fun op t ha h ht => by_contra fun hop => ?_⟩
  · simp only [unspecified_blockReset]
    exact ⟨rfl, rfl, rfl, statusWord_blockReset s, rfl, rfl, rfl, rfl, unspecified_reset_tap, fun _ => ⟨rfl, rfl⟩,
      rfl, rfl, rfl, rfl⟩
  · obtain ⟨hkept, -⟩ := perform_keeps_abort ha hop h
    simp [hkept] at ht

end Sys2Proof.Machine
end

section
/-! PROOF. The encoding of a command word and its converse (R71, R72): the fields of an encoded word, the word of given fields, and
the words a row of the opcode table selects; then the remaining obligations of spec/30_encoding.md. -/

namespace Sys2Proof.Machine

/-! ### The fields of an encoded word, and the word of given fields (R71) -/

theorem toNat_commandValue_formatC (width : BitVec 16) (op : BitVec 8) :
    (commandValue (formatC 0#8 width op)).toNat = width.toNat * 2 ^ 8 + op.toNat := by
  rw [toNat_commandValue, toNat_formatC]
  simp

@[simp] theorem fieldAbove_formatC (width : BitVec 16) (op : BitVec 8) :
    fieldAbove (commandValue (formatC 0#8 width op)) = 0 := by
  rw [fieldAbove_eq, toNat_commandValue_formatC]
  omega

@[simp] theorem fieldRsv_formatC (width : BitVec 16) (op : BitVec 8) :
    fieldRsv (commandValue (formatC 0#8 width op)) = 0 := by
  rw [fieldRsv_eq, toNat_commandValue_formatC]
  omega

@[simp] theorem fieldWidth_formatC (width : BitVec 16) (op : BitVec 8) :
    fieldWidth (commandValue (formatC 0#8 width op)) = width.toNat := by
  rw [fieldWidth_eq, toNat_commandValue_formatC]
  omega

@[simp] theorem fieldOp_formatC (width : BitVec 16) (op : BitVec 8) :
    fieldOp (commandValue (formatC 0#8 width op)) = op.toNat := by
  rw [fieldOp_eq, toNat_commandValue_formatC]
  omega

theorem fieldWidth_lt (v : HostValue) : fieldWidth v < 65536 := by
  rw [fieldWidth_eq]
  exact Nat.mod_lt _ (by decide)

/-- R71: a value with nothing above `width` is the word of its two fields. -/
theorem eq_commandValue_of_fields {v : HostValue} (ha : fieldAbove v = 0) (hr : fieldRsv v = 0) :
    v = commandValue (formatC 0#8 (BitVec.ofNat 16 (fieldWidth v)) (BitVec.ofNat 8 (fieldOp v))) := by
  apply BitVec.eq_of_toNat_eq
  rw [toNat_commandValue_formatC, BitVec.toNat_ofNat, BitVec.toNat_ofNat, fieldWidth_eq, fieldOp_eq]
  rw [fieldAbove_eq] at ha
  rw [fieldRsv_eq] at hr
  omega

/-! ### Encoding and decoding (R71, R72) -/

/-- R72, R73: no bit of a command is lost in its word. -/
theorem decode_encode {i : Instr} (h : i.WellFormed) : decode (commandValue (encode i)) = .ok i := by
  rw [decode_eq_ok_iff]
  cases i with
  | pack => simp [encode, opcodeOf]
  | firs width => simp [encode, opcodeOf, Nat.mod_eq_of_lt (show width < 65536 from h)]
  | firv width => simp [encode, opcodeOf, Nat.mod_eq_of_lt (show width < 65536 from h)]

theorem wellFormed_of_decode {v : HostValue} {i : Instr} (h : decode v = .ok i) : i.WellFormed := by
  obtain ⟨-, -, ⟨-, -, rfl⟩ | ⟨-, rfl⟩ | ⟨-, rfl⟩⟩ := (decode_eq_ok_iff v i).1 h
  · trivial
  · exact fieldWidth_lt v
  · exact fieldWidth_lt v

/-- R71, R75: the decoder accepts no value but the word of the command it reads. -/
theorem eq_encode_of_decode {v : HostValue} {i : Instr} (h : decode v = .ok i) : v = commandValue (encode i) := by
  obtain ⟨ha, hr, hrow⟩ := (decode_eq_ok_iff v i).1 h
  have hv := eq_commandValue_of_fields ha hr
  rcases hrow with ⟨ho, hw, rfl⟩ | ⟨ho, rfl⟩ | ⟨ho, rfl⟩
  · rw [ho, hw] at hv; exact hv
  · rw [ho] at hv; exact hv
  · rw [ho] at hv; exact hv

theorem commandValue_injective : Function.Injective commandValue := by
  intro v w h
  apply BitVec.eq_of_toNat_eq
  rw [← toNat_commandValue v, ← toNat_commandValue w, h]

/-! ### The words a row selects (R72) -/

/-- R71: every word is its three fields. -/
theorem eq_formatC_fields (v : BitVec 32) :
    v = formatC (v.extractLsb' 24 8) (v.extractLsb' 8 16) (v.extractLsb' 0 8) := by
  apply BitVec.eq_of_getElem_eq
  intro j hj
  rw [Laws.getElem_formatC _ _ _ _ hj]
  split_ifs with hop hwidth
  · simp [BitVec.getLsbD_eq_getElem hj]
  · simp [show 8 + (j - 8) = j by omega, BitVec.getLsbD_eq_getElem hj]
  · simp [show 24 + (j - 24) = j by omega, BitVec.getLsbD_eq_getElem hj]

/-- The masks of `FIRS` and `FIRV` keep `rsv` and `op`. -/
theorem formatC_and_mask (rsv : BitVec 8) (width : BitVec 16) (op : BitVec 8) :
    formatC rsv width op &&& 0xFF0000FF#32 = formatC rsv 0 op := by
  apply BitVec.eq_of_getElem_eq
  intro j hj
  rw [BitVec.getElem_and, Laws.getElem_formatC _ _ _ _ hj, Laws.getElem_formatC _ _ _ _ hj]
  interval_cases j <;> simp

theorem formatC_inj {rsv rsv' op op' : BitVec 8} {width width' : BitVec 16}
    (h : formatC rsv width op = formatC rsv' width' op') : rsv = rsv' ∧ width = width' ∧ op = op' := by
  have hnat := congrArg BitVec.toNat h
  rw [toNat_formatC, toNat_formatC] at hnat
  have := rsv.isLt
  have := rsv'.isLt
  have := width.isLt
  have := width'.isLt
  have := op.isLt
  have := op'.isLt
  refine ⟨BitVec.eq_of_toNat_eq ?_, BitVec.eq_of_toNat_eq ?_, BitVec.eq_of_toNat_eq ?_⟩ <;> omega

/-- A word whose `rsv` and `op` are those of a row leaves `width` free. -/
theorem eq_formatC_of_masked {v : BitVec 32} {op : BitVec 8} (h : v &&& 0xFF0000FF#32 = formatC 0 0 op) :
    ∃ width < 65536, v = formatC 0 (BitVec.ofNat 16 width) op := by
  have hv := eq_formatC_fields v
  rw [hv, formatC_and_mask] at h
  obtain ⟨hrsv, -, hop⟩ := formatC_inj h
  refine ⟨(v.extractLsb' 8 16).toNat, BitVec.isLt _, ?_⟩
  rw [BitVec.ofNat_toNat, BitVec.setWidth_eq, ← hrsv, ← hop]
  exact hv

theorem selects_encode (i : Instr) : (rowOf i).selects (encode i) = true :=
  match i with
  | .pack => Laws.SelectsOwnRow.pack
  | .firs width => Laws.SelectsOwnRow.firs width
  | .firv width => Laws.SelectsOwnRow.firv width

/-- R72: the words a row selects are the encodings of the row's commands. -/
theorem exists_encode_of_selects {r : OpcodeRow} {v : BitVec 32} (hr : r ∈ opcodeTable) (h : r.selects v = true) :
    ∃ i : Instr, i.WellFormed ∧ rowOf i = r ∧ v = encode i := by
  rw [OpcodeRow.selects, beq_iff_eq] at h
  simp only [opcodeTable, List.mem_cons, List.not_mem_nil, or_false] at hr
  rcases hr with rfl | rfl | rfl
  · refine ⟨.pack, trivial, rfl, ?_⟩
    exact (BitVec.and_allOnes (x := v)).symm.trans h
  · obtain ⟨width, hw, hv⟩ := eq_formatC_of_masked (op := 2) h
    exact ⟨.firs width, hw, rfl, hv⟩
  · obtain ⟨width, hw, hv⟩ := eq_formatC_of_masked (op := 3) h
    exact ⟨.firv width, hw, rfl, hv⟩

theorem rowOf_mem_opcodeTable (i : Instr) : rowOf i ∈ opcodeTable := by
  cases i <;> simp [rowOf, opcodeTable]

/-! ### The obligations -/

/-- Settles O1: the fields of the encoded word are the command's own. -/
theorem decodeOfEncodeIsIdentity : Obligations.DecodeOfEncodeIsIdentity := fun _ h => decode_encode h

/-- Settles O2: an accepted value has nothing above its fields `op` and `width`, which are the command's. -/
theorem acceptedWordIsTheEncoding : Obligations.AcceptedWordIsTheEncoding :=
  fun _ _ h => ⟨wellFormed_of_decode h, eq_encode_of_decode h⟩

/-- Settles O3: the words a row selects are the encodings of the row's commands, and decoding undoes encoding. -/
theorem opcodeTableRowsAreDisjointAndDecoded : Obligations.OpcodeTableRowsAreDisjointAndDecoded := by
  intro v
  refine ⟨fun r hr r' hr' h h' => ?_, fun r hr h => ?_, fun hnone => ?_⟩
  · obtain ⟨i, hi, rfl, rfl⟩ := exists_encode_of_selects hr h
    obtain ⟨i', hi', rfl, hv⟩ := exists_encode_of_selects hr' h'
    have hdecode := decode_encode hi
    rw [hv, decode_encode hi'] at hdecode
    cases hdecode
    rfl
  · obtain ⟨i, hi, rfl, rfl⟩ := exists_encode_of_selects hr h
    exact ⟨i, decode_encode hi, rfl⟩
  · cases hd : decode (commandValue v) with
    | error e => exact ⟨e, rfl⟩
    | ok i =>
      have hv : v = encode i := commandValue_injective (eq_encode_of_decode hd)
      have hsel := hnone (rowOf i) (rowOf_mem_opcodeTable i)
      rw [hv, selects_encode] at hsel
      cases hsel

/-- Settles O6, word by word. -/
theorem wordsOfTheSpecDecode : Obligations.WordsOfTheSpecDecode := by
  refine ⟨?_, ?_, ?_, ?_, ?_, ?_⟩ <;> decide

end Sys2Proof.Machine
end

section
/-! PROOF. Everything a command and a host operation can do to the state, said once: what each command leaves unchanged (R35), the
operations that touch no memory, and the invariant each of them keeps; then the obligations on the whole machine. -/

namespace Sys2Proof.Machine

/-! ### What a filter command does to the state (R35, R179) -/

/-- `m` is the memory of `s` with nothing changed but bytes of the write footprint, and none of the `len` source bytes from `a` on. -/
structure OutputFrame (a len width : Nat) (s : State) (m : Memory) : Prop where
  outside : ∀ x, OutsideOutput width s x → Memory.lookup m x = Memory.lookup s.mem x
  source : ∀ j < len, Memory.lookup m (a + j) = Memory.lookup s.mem (a + j)
  canonical : Memory.wf s.mem → Memory.wf m
  within : Memory.within s.platform.aw s.mem → Memory.within s.platform.aw m

theorem OutputFrame.refl (a len width : Nat) (s : State) : OutputFrame a len width s s.mem :=
  ⟨fun _ _ => rfl, fun _ _ => rfl, id, id⟩

/-- R63: where the footprints are disjoint, a source byte lies outside the output. -/
theorem FootprintsPlaced.source_outside {a len width : Nat} {s : State}
    (h : FootprintsPlaced s.platform a len s.dst.toNat width) {j : Nat} (hj : j < len) : OutsideOutput width s (a + j) := by
  have := h.disjoint
  omega

theorem FootprintsPlaced.outputFrame {a len width : Nat} {s : State} {m : Memory}
    (h : FootprintsPlaced s.platform a len s.dst.toNat width)
    (outside : ∀ x, OutsideOutput width s x → Memory.lookup m x = Memory.lookup s.mem x)
    (canonical : Memory.wf s.mem → Memory.wf m)
    (within : s.dst.toNat + width ≤ 2 ^ s.platform.aw → Memory.within s.platform.aw s.mem →
      Memory.within s.platform.aw m) : OutputFrame a len width s m :=
  ⟨outside, fun _ hj => outside _ (h.source_outside hj), canonical, within h.writesInside⟩

theorem outputFrame_scramble {a len width : Nat} {s : State} (h : FootprintsPlaced s.platform a len s.dst.toNat width)
    (k : Nat) : OutputFrame a len width s (Memory.scramble s.mem s.dst.toNat k width) :=
  h.outputFrame (fun x hx => by rw [lookup_scramble, if_neg (by omega)]) (fun hm => wf_scramble _ hm _ _)
    (fun hend hm => within_scramble _ hm _ hend)

theorem outputFrame_filterRow {p : Platform} {ts : List Int} {a len width src : Nat} {s : State} {m : Memory}
    (h : FootprintsPlaced s.platform a len s.dst.toNat width)
    (hrow : filterRow p ts width src s.dst.toNat s.mem = .ok m) : OutputFrame a len width s m :=
  have ⟨outside, canonical, within⟩ := filterRow_frame hrow
  h.outputFrame outside canonical (within _)

theorem outputFrame_block {ctx : TileContext} {level a len src : Nat} {s : State} {m : Memory}
    (h : FootprintsPlaced s.platform a len s.dst.toNat (4 * 2 ^ level))
    (hblock : block ctx level src s.dst.toNat s.mem = .ok m) : OutputFrame a len (4 * 2 ^ level) s m :=
  have ⟨outside, canonical, within⟩ := block_frame hblock
  h.outputFrame outside canonical (within _)

/-- All a filter command does: it completes with output in memory, or aborts; of memory it touches its output alone. -/
inductive FilterEffect (a len width : Nat) (s : State) : State → Prop
  /-- the command completes -/
  | stored (m : Memory) (frame : OutputFrame a len width s m) : FilterEffect a len width s (State.withMemory m s)
  /-- the command takes an abort, having drawn free values up to `k` -/
  | aborted (c : Cause) (m : Memory) (k : Nat) (frame : OutputFrame a len width s m) :
      FilterEffect a len width s (State.aborted c { s with mem := m, freeNext := k })

theorem FilterEffect.raised (a len width : Nat) (c : Cause) (s : State) :
    FilterEffect a len width s (State.aborted c s) := .aborted c _ s.freeNext (.refl a len width s)

theorem FilterEffect.stopped {a len width : Nat} {s : State} (h : FootprintsPlaced s.platform a len s.dst.toNat width)
    (c : Cause) : FilterEffect a len width s (State.aborted c (State.outputUnspecified width s)) :=
  .aborted c _ (s.freeNext + width) (outputFrame_scramble h s.freeNext)

theorem FilterEffect.frame {a len width : Nat} {s t : State} (h : FilterEffect a len width s t) :
    OutputFrame a len width s t.mem := by
  cases h with
  | stored m frame => exact frame
  | aborted c m k frame => exact frame

theorem execFirs_effect {width : Nat} {s t : State} (h : execFirs width s = .next t) :
    FilterEffect s.src.toNat (width + s.tapsnum.toNat - 1) width s t := by
  rcases execFirs_cases h with ⟨-, rfl⟩ | ⟨hl, hr, hend⟩
  · exact .raised _ _ _ _ s
  · rw [legalTapsnum_iff] at hl
    rcases Nat.eq_zero_or_pos width with rfl | hw
    · rw [execFirs_zero hl] at h
      cases h
      exact .stored _ (.refl _ _ _ s)
    · obtain ⟨-, -, hplaced⟩ := (firsRefusal_none_iff hw (tapsnum_pos_of_legal hl)).1 hr
      rcases hend with ⟨m, hrow, rfl⟩ | ⟨c, -, -, rfl⟩
      · exact .stored m (outputFrame_filterRow hplaced hrow)
      · exact .stopped hplaced c

theorem execFirv_effect {width : Nat} {s t : State} (h : execFirv width s = .next t) :
    FilterEffect (s.src.toNat - delta s.tapsnum) (width + 13) width s t := by
  rcases execFirv_cases h with ⟨-, rfl⟩ | ⟨level, -, -, rfl⟩ | ⟨level, hl, -, hr, hend⟩
  · exact .raised _ _ _ _ s
  · exact .raised _ _ _ _ s
  · obtain ⟨-, -, hplaced⟩ := (firvRefusal_none_iff (width_pos_of_supported (blockLevel_some_mem hl))).1 hr
    obtain rfl := blockLevel_width hl
    rcases hend with ⟨m, hblock, rfl⟩ | ⟨c, -, -, rfl⟩
    · exact .stored m (outputFrame_block hplaced hblock)
    · exact .stopped hplaced c

/-! ### What a command does to the state -/

/-- `PACK` succeeds exactly under `PackReady`; otherwise it takes an abort. -/
theorem execPack_effect {s t : State} (h : execPack s = .next t) :
    (PackReady s ∧ t = State.packed s) ∨ (¬ PackReady s ∧ ∃ c, t = State.aborted c s) := by
  by_cases hready : PackReady s
  · rw [execPack_ready hready] at h
    cases h
    exact .inl ⟨hready, rfl⟩
  · rcases execPack_cases h with ⟨-, rfl⟩ | ⟨-, rfl⟩ | ⟨hl, hscan, -⟩
    · exact .inr ⟨hready, _, rfl⟩
    · exact .inr ⟨hready, _, rfl⟩
    · exact absurd ((packReady_iff s).2 ⟨hl, hscan⟩) hready

/-- All a command can do when it answers a next state. -/
theorem exec_cases {i : Instr} {s t : State} (h : exec i s = .next t) :
    (i = .pack ∧ ((PackReady s ∧ t = State.packed s) ∨ ∃ c, t = State.aborted c s)) ∨
    (∃ a len width, (i = .firs width ∨ i = .firv width) ∧ FilterEffect a len width s t) := by
  cases i with
  | pack => exact .inl ⟨rfl, (execPack_effect h).imp_right And.right⟩
  | firs width => exact .inr ⟨_, _, width, .inl rfl, execFirs_effect h⟩
  | firv width => exact .inr ⟨_, _, width, .inr rfl, execFirv_effect h⟩

/-- R23, R24, R41: a command changes the windows, `STATUS`, memory and the count of free values drawn, and nothing else. -/
theorem exec_keeps_operands {i : Instr} {s t : State} (h : exec i s = .next t) :
    ∃ u : State, t = { s with w0 := u.w0, w1 := u.w1, wvalid := u.wvalid, abort := u.abort, cause := u.cause,
                              mem := u.mem, freeNext := u.freeNext } := by
  refine ⟨t, ?_⟩
  rcases exec_cases h with ⟨-, ⟨-, rfl⟩ | ⟨c, rfl⟩⟩ | ⟨a, len, width, -, heffect⟩
  · rfl
  · rfl
  · cases heffect <;> rfl

/-- R178: a command leaves `STATUS.ABORT` and `CAUSE` as they were or takes an abort. -/
theorem exec_status {i : Instr} {s t : State} (h : exec i s = .next t) :
    (t.abort = s.abort ∧ t.cause = s.cause) ∨ (t.abort = true ∧ ∃ c : Cause, t.cause = causeCode c) := by
  rcases exec_cases h with ⟨-, ⟨-, rfl⟩ | ⟨c, rfl⟩⟩ | ⟨a, len, width, -, heffect⟩
  · exact .inl ⟨rfl, rfl⟩
  · exact .inr ⟨rfl, c, rfl⟩
  · cases heffect with
    | stored m frame => exact .inl ⟨rfl, rfl⟩
    | aborted c m k frame => exact .inr ⟨rfl, c, rfl⟩

theorem FilterEffect.keeps_windows {a len width : Nat} {s t : State} (h : FilterEffect a len width s t) :
    t.w0 = s.w0 ∧ t.w1 = s.w1 ∧ t.wvalid = s.wvalid := by
  cases h with
  | stored m frame => exact ⟨rfl, rfl, rfl⟩
  | aborted c m k frame => exact ⟨rfl, rfl, rfl⟩

/-- `FIRS` and `FIRV` alike, where the place of their sources does not matter. -/
theorem exec_filter_effect {i : Instr} {width : Nat} {s t : State} (hi : i = .firs width ∨ i = .firv width)
    (h : exec i s = .next t) : ∃ a len, FilterEffect a len width s t := by
  rcases hi with rfl | rfl
  · exact ⟨_, _, execFirs_effect h⟩
  · exact ⟨_, _, execFirv_effect h⟩

/-! ### What a host operation does to the state (R22) -/

/-- All the operations that run no command, touch no memory and are not `Reset` can do. -/
inductive RegisterEffect (s : State) : State → Prop
  /-- nothing, but for what the host is told -/
  | answered (k : Nat) (answers : List HostValue) : RegisterEffect s { s with freeNext := k, returned := answers }
  | src (v : HostValue) : RegisterEffect s (State.writeSrc v s)
  | dst (v : HostValue) : RegisterEffect s (State.writeDst v s)
  | tapsnum (v : HostValue) : RegisterEffect s (State.writeTapsnum v s)
  | tap (k : Fin 12) (v : HostValue) : RegisterEffect s (State.writeTap k v s)
  | aborted (c : Cause) (answers : List HostValue) : RegisterEffect s (State.aborted c { s with returned := answers })

/-- All a host operation can do when it answers a next state. -/
inductive OperationEffect (s : State) : HostOp → State → Prop
  | command {v : HostValue} {i : Instr} {t : State} (live : s.abort = false)
      (decoded : decode (truncTo (Platform.xw s.platform) v) = .ok i) (runs : exec i s = .next t) :
      OperationEffect s (.csrWrite 0 v) t
  | reset : OperationEffect s .reset (State.blockReset s)
  | memStore {a : Nat} {bytes : List Byte} (inside : a + bytes.length ≤ 2 ^ s.platform.aw) :
      OperationEffect s (.memStore a bytes) (State.withMemory (Memory.storeBytes s.mem a bytes) s)
  | register {op : HostOp} {t : State} (effect : RegisterEffect s t) : OperationEffect s op t

theorem RegisterEffect.unchanged (s : State) : RegisterEffect s s := .answered s.freeNext s.returned

theorem csrWrite_effect {n : Nat} {v : HostValue} {s t : State} (h : csrWrite n v s = .next t) :
    OperationEffect s (.csrWrite n v) t := by
  cases ha : s.abort with
  | true =>
    rw [csrWrite_aborted ha] at h
    cases h
    exact .register (.unchanged s)
  | false =>
    rw [csrWrite_live ha] at h
    rcases writeRegister_cases n (truncTo (Platform.xw s.platform) v) s with
      ⟨hn, hw⟩ | ⟨-, hw⟩ | ⟨-, hw⟩ | ⟨-, hw⟩ | ⟨k, -, hw⟩ | hw <;> rw [hw] at h
    · obtain rfl : 0 = n := (regOf_eq_some_iff n .cmd).1 hn
      rcases issueCommand_cases (truncTo (Platform.xw s.platform) v) s with ⟨i, hd, hi⟩ | ⟨-, hi⟩ <;> rw [hi] at h
      · exact .command ha hd h
      · cases h; exact .register (.aborted .illegalCmd s.returned)
    · cases h; exact .register (.src _)
    · cases h; exact .register (.dst _)
    · cases h; exact .register (.tapsnum _)
    · cases h; exact .register (.tap k _)
    · cases h; exact .register (.aborted .illegalReg s.returned)

theorem csrRead_effect {n : Nat} {s t : State} (h : csrRead n s = .next t) : RegisterEffect s t := by
  rcases csrRead_cases n s with ⟨r, -, -, hr⟩ | ⟨-, hr⟩ <;> rw [hr] at h
  · obtain ⟨k, answers, heq⟩ := readRegister_eq r s
    rw [heq] at h
    cases h
    exact .answered k answers
  · cases ha : s.abort with
    | true => rw [readIllegal_aborted ha] at h; cases h; exact .answered s.freeNext _
    | false => rw [readIllegal_live ha] at h; cases h; exact .aborted .illegalReg _

theorem hostStore_inside {a : Nat} {bytes : List Byte} {s t : State} (h : hostStore a bytes s = .next t) :
    a + bytes.length ≤ 2 ^ s.platform.aw := by
  by_contra hout
  simp [hostStore, inMemory, hout] at h

theorem perform_effect {op : HostOp} {s t : State} (h : perform op s = .next t) : OperationEffect s op t := by
  cases op with
  | csrWrite n v => exact csrWrite_effect h
  | csrRead n => exact .register (csrRead_effect h)
  | reset => cases h; exact .reset
  | memStore a bytes =>
    cases hostStore_next h
    exact .memStore (hostStore_inside h)
  | memLoad a n =>
    cases hostLoad_next h
    exact .register (.answered s.freeNext _)

/-! ### What every operation keeps, and what only some can change -/

/-- R24, R41: no operation changes the platform, the host's list or, itself, the index. -/
theorem perform_keeps_host {op : HostOp} {s t : State} (h : perform op s = .next t) :
    t.platform = s.platform ∧ t.program = s.program ∧ t.index = s.index := by
  cases perform_effect h with
  | command live decoded runs =>
    obtain ⟨u, rfl⟩ := exec_keeps_operands runs
    exact ⟨rfl, rfl, rfl⟩
  | reset => exact ⟨rfl, rfl, rfl⟩
  | memStore inside => exact ⟨rfl, rfl, rfl⟩
  | register effect => cases effect <;> exact ⟨rfl, rfl, rfl⟩

/-- The operation writes a word to `CMD` that decodes to `i`, with `ABORT = 0`. -/
def Issues (op : HostOp) (i : Instr) (s : State) : Prop :=
  ∃ v, op = .csrWrite 0 v ∧ s.abort = false ∧ decode (truncTo (Platform.xw s.platform) v) = .ok i

/-- R28, R30: every operation but `PACK` and `Reset` keeps the windows and never makes them valid. -/
theorem perform_windows {op : HostOp} {s t : State} (h : perform op s = .next t) :
    Issues op .pack s ∨ (op = .reset ∧ t.wvalid = false) ∨
      (t.w0 = s.w0 ∧ t.w1 = s.w1 ∧ (t.wvalid = true → s.wvalid = true)) := by
  cases perform_effect h with
  | @command v i _ live decoded runs =>
    rcases exec_cases runs with ⟨rfl, -⟩ | ⟨a, len, width, -, heffect⟩
    · exact .inl ⟨v, rfl, live, decoded⟩
    · obtain ⟨h0, h1, hv⟩ := heffect.keeps_windows
      exact .inr (.inr ⟨h0, h1, fun ht => hv ▸ ht⟩)
  | reset => exact .inr (.inl ⟨rfl, rfl⟩)
  | memStore inside => exact .inr (.inr ⟨rfl, rfl, id⟩)
  | register effect =>
    refine .inr (.inr ?_)
    cases effect with
    | answered | src | dst | aborted => exact ⟨rfl, rfl, id⟩
    | tapsnum | tap => exact ⟨rfl, rfl, fun ht => by simp at ht⟩

/-- R36, R50: every operation but a filter command and the host's own store keeps memory. -/
theorem perform_memory {op : HostOp} {s t : State} (h : perform op s = .next t) :
    (∃ a bytes, op = .memStore a bytes) ∨ (∃ width, Issues op (.firs width) s ∨ Issues op (.firv width) s) ∨
      t.mem = s.mem := by
  cases perform_effect h with
  | @command v i _ live decoded runs =>
    rcases exec_cases runs with ⟨-, ⟨-, rfl⟩ | ⟨c, rfl⟩⟩ | ⟨a, len, width, rfl | rfl, -⟩
    · exact .inr (.inr rfl)
    · exact .inr (.inr rfl)
    · exact .inr (.inl ⟨width, .inl ⟨v, rfl, live, decoded⟩⟩)
    · exact .inr (.inl ⟨width, .inr ⟨v, rfl, live, decoded⟩⟩)
  | reset => exact .inr (.inr rfl)
  | memStore inside => exact .inl ⟨_, _, rfl⟩
  | register effect => exact .inr (.inr (by cases effect <;> rfl))

/-! ### The invariant -/

theorem causeCode_ne_zero (c : Cause) : causeCode c ≠ 0 := by cases c <;> decide

theorem toNat_causeCode_le (c : Cause) : (causeCode c).toNat ≤ 8 := by cases c <;> decide

section
variable {s : State} (h : State.Inv s)
include h

/-- What the host has been told is no part of the invariant. -/
theorem State.Inv.answered (k : Nat) (answers : List HostValue) :
    State.Inv { s with freeNext := k, returned := answers } :=
  { h with windows := fun hv => { h.windows hv with } }

theorem State.Inv.advance : State.Inv (State.advance s) := { h with windows := fun hv => { h.windows hv with } }

theorem State.Inv.aborted (c : Cause) : State.Inv (State.aborted c s) :=
  { h with
    causeWhileAborted := iff_of_false (causeCode_ne_zero c) (by simp)
    causeLegal := toNat_causeCode_le c
    windows := fun hv => { h.windows hv with } }

theorem State.Inv.withMemory {m : Memory} (hwf : Memory.wf m) (hin : Memory.within s.platform.aw m) :
    State.Inv (State.withMemory m s) :=
  { h with memCanonical := hwf, memWithin := hin, windows := fun hv => { h.windows hv with } }

theorem State.Inv.writeSrc (v : HostValue) : State.Inv (State.writeSrc v s) :=
  { h with srcWithin := toNat_truncTo_lt _ v, windows := fun hv => { h.windows hv with } }

theorem State.Inv.writeDst (v : HostValue) : State.Inv (State.writeDst v s) :=
  { h with dstWithin := toNat_truncTo_lt _ v, windows := fun hv => { h.windows hv with } }

theorem State.Inv.writeTapsnum (v : HostValue) : State.Inv (State.writeTapsnum v s) :=
  { h with windows := fun hv => by simp at hv }

theorem State.Inv.writeTap (k : Fin 12) (v : HostValue) : State.Inv (State.writeTap k v s) :=
  { h with windows := fun hv => by simp at hv }

theorem State.Inv.blockReset : State.Inv (State.blockReset s) :=
  { h with
    srcWithin := Nat.two_pow_pos _
    dstWithin := Nat.two_pow_pos _
    causeWhileAborted := by simp
    causeLegal := Nat.zero_le 8
    windows := fun hv => by simp at hv }

/-- R30: `PACK` makes the windows valid by making them match. -/
theorem State.Inv.packed (hready : PackReady s) : State.Inv (State.packed s) :=
  have ⟨hl, hscan⟩ := (packReady_iff s).1 hready
  { h with windows := fun _ => windowsMatch_packed hl hscan }

theorem FilterEffect.keeps_inv {a len width : Nat} {t : State} (heffect : FilterEffect a len width s t) :
    State.Inv t := by
  cases heffect with
  | stored m frame => exact h.withMemory (frame.canonical h.memCanonical) (frame.within h.memWithin)
  | aborted c m k frame =>
    exact ((h.withMemory (frame.canonical h.memCanonical) (frame.within h.memWithin)).answered k s.returned).aborted c

theorem exec_keeps_inv {i : Instr} {t : State} (hexec : exec i s = .next t) : State.Inv t := by
  rcases exec_cases hexec with ⟨-, ⟨hready, rfl⟩ | ⟨c, rfl⟩⟩ | ⟨a, len, width, -, heffect⟩
  · exact h.packed hready
  · exact h.aborted c
  · exact heffect.keeps_inv h

theorem RegisterEffect.keeps_inv {t : State} (heffect : RegisterEffect s t) : State.Inv t := by
  cases heffect with
  | answered k answers => exact h.answered k answers
  | src v => exact h.writeSrc v
  | dst v => exact h.writeDst v
  | tapsnum v => exact h.writeTapsnum v
  | tap k v => exact h.writeTap k v
  | aborted c answers => exact (h.answered s.freeNext answers).aborted c

theorem perform_keeps_inv {op : HostOp} {t : State} (hop : perform op s = .next t) : State.Inv t := by
  cases perform_effect hop with
  | command live decoded runs => exact exec_keeps_inv h runs
  | reset => exact h.blockReset
  | memStore inside =>
    exact h.withMemory (wf_storeBytes _ h.memCanonical _) (within_storeBytes _ h.memWithin inside)
  | register effect => exact effect.keeps_inv h

end

/-! ### The obligations -/

/-- Settles O52: a step is an operation, each of whose effects keeps the invariant, and a move of the index. -/
theorem everyStepKeepsTheInvariant : Obligations.EveryStepKeepsTheInvariant := by
  intro s t hinv h
  rcases step_cases h with ⟨-, rfl⟩ | ⟨op, u, -, hu, rfl⟩
  · exact hinv
  · exact (perform_keeps_inv hinv hu).advance

/-- Settles O51: the reset state lists no byte, holds 0 in its registers and has no valid windows. -/
theorem resetStateSatisfiesTheInvariant : Obligations.ResetStateSatisfiesTheInvariant where
  addressWidth := by decide
  memCanonical := .nil
  memWithin := fun c hc => absurd hc List.not_mem_nil
  srcWithin := Nat.two_pow_pos _
  dstWithin := Nat.two_pow_pos _
  causeWhileAborted := by decide
  causeLegal := by decide
  windows := fun hv => Bool.noConfusion hv

/-- Settles O42: the frames of the three commands, read off all they can do. -/
theorem commandsKeepTheirFrame : Obligations.CommandsKeepTheirFrame := by
  intro i s t h
  refine ⟨?_, exec_status h, ?_, fun width hi => ?_⟩
  · obtain ⟨u, rfl⟩ := exec_keeps_operands h
    exact ⟨rfl, rfl, rfl, rfl, rfl, rfl, rfl, rfl, rfl, rfl, rfl⟩
  · rintro rfl
    rcases execPack_effect h with ⟨hready, rfl⟩ | ⟨hready, c, rfl⟩
    · exact ⟨rfl, rfl, .inl ⟨hready, rfl⟩⟩
    · exact ⟨rfl, rfl, .inr ⟨hready, c, rfl⟩⟩
  · obtain ⟨a, len, heffect⟩ := exec_filter_effect hi h
    obtain ⟨h0, h1, hv⟩ := heffect.keeps_windows
    exact ⟨h0, h1, hv, fun x hx => byteAt_of_lookup (heffect.frame.outside x hx)⟩

/-- Settles O43: every memory a filter command leaves has its source bytes as before. -/
theorem filtersKeepTheirSourceBytes : Obligations.FiltersKeepTheirSourceBytes :=
  ⟨fun _ _ _ h j hj => byteAt_of_lookup ((execFirs_effect h).frame.source j hj),
    fun _ _ _ h j hj => byteAt_of_lookup ((execFirv_effect h).frame.source j hj)⟩

/-- Settles O45: with `ABORT = 0` the write reaches the decoder, and the step is the command's answer with the index moved on. -/
theorem stepRunsTheDecodedCommand : Obligations.StepRunsTheDecodedCommand := by
  intro s v i ha hop hd
  have hstep : step s = advanceHost (exec i s) := by
    have hperform : perform (.csrWrite 0 v) s = exec i s := (csrWrite_live ha).trans (issueCommand_ok hd s)
    rw [step, hop, ← hperform]
  refine ⟨wellFormed_of_decode hd, fun t h => ?_, fun f h => ?_, fun r h => ?_⟩ <;> rw [hstep, h] <;> rfl

/-- Settles O46: an operation leaves the host's list and index alone, and the step then moves the index. -/
theorem hostIndexAdvancesByOne : Obligations.HostIndexAdvancesByOne := by
  refine ⟨fun s hn => by rw [step, hn], fun s t op hop h => ?_⟩
  rcases step_cases h with ⟨hn, -⟩ | ⟨op', u, -, hu, rfl⟩
  · rw [hop] at hn; cases hn
  · obtain ⟨-, hprogram, hindex⟩ := perform_keeps_host hu
    exact ⟨congrArg (· + 1) hindex, hprogram⟩

/-- Settles O47, from the frame of every operation. -/
theorem platformNeverChanges : Obligations.PlatformNeverChanges := by
  intro s t h
  rcases step_cases h with ⟨-, rfl⟩ | ⟨op, u, -, hu, rfl⟩
  · rfl
  · exact (perform_keeps_host hu).1

/-- Settles O48: of the operations that can touch the windows, `Reset` leaves them invalid. -/
theorem onlyPackMakesWindowsValid : Obligations.OnlyPackMakesWindowsValid := by
  intro s t h hs ht
  rcases step_cases h with ⟨-, rfl⟩ | ⟨op, u, hop, hu, rfl⟩
  · simp [hs] at ht
  · rw [advance_wvalid] at ht
    rcases perform_windows hu with ⟨v, rfl, hissued⟩ | ⟨-, hv⟩ | ⟨-, -, hv⟩
    · exact ⟨v, hop, hissued⟩
    · simp [hv] at ht
    · simp [hv ht] at hs

/-- Settles O49: every operation but `PACK` and `Reset` keeps both windows. -/
theorem onlyPackAndResetWriteWindows : Obligations.OnlyPackAndResetWriteWindows := by
  intro s t h hne
  rcases step_cases h with ⟨-, rfl⟩ | ⟨op, u, hop, hu, rfl⟩
  · simp at hne
  · rcases perform_windows hu with ⟨v, rfl, hissued⟩ | ⟨rfl, -⟩ | ⟨h0, h1, -⟩
    · exact .inr ⟨v, hop, hissued⟩
    · exact .inl hop
    · simp [h0, h1] at hne

/-- Settles O50: every operation but a filter command and the host's store keeps memory. -/
theorem onlyFiltersAndTheHostWriteMemory : Obligations.OnlyFiltersAndTheHostWriteMemory := by
  intro s t h hne
  rcases step_cases h with ⟨-, rfl⟩ | ⟨op, u, hop, hu, rfl⟩
  · exact absurd rfl hne
  · rcases perform_memory hu with ⟨a, bytes, rfl⟩ | ⟨width, ⟨v, rfl, ha, hd⟩ | ⟨v, rfl, ha, hd⟩⟩ | hm
    · exact .inl ⟨a, bytes, hop⟩
    · exact .inr ⟨v, width, hop, ha, .inl hd⟩
    · exact .inr ⟨v, width, hop, ha, .inr hd⟩
    · exact absurd hm hne

end Sys2Proof.Machine
end

section
/-! PROOF. The values the host reads (R22, R25), and its own accesses to memory (R50); then the obligations on them. -/

namespace Sys2Proof.Machine

/-! ### Patterns of registers as the interface carries them (R22) -/

/-- R22: a register's zero-extended pattern is its signed value modulo `2^N`. -/
theorem toNat_setWidth_eq_toInt_emod {bits : Nat} (h : bits ≤ 64) (x : BitVec bits) :
    ((x.setWidth 64).toNat : Int) = x.toInt % 2 ^ bits := by
  have hmod : (x.toNat : Int).bmod (2 ^ bits) % ((2 ^ bits : Nat) : Int) = x.toNat := by
    rw [Int.bmod_emod]
    exact_mod_cast Nat.mod_eq_of_lt x.isLt
  rw [BitVec.toNat_setWidth_of_le h, BitVec.toInt_eq_toNat_bmod]
  exact_mod_cast hmod.symm

theorem toNat_append_eq_mul_add {m n : Nat} (x : BitVec m) (y : BitVec n) :
    (x ++ y).toNat = x.toNat * 2 ^ n + y.toNat := by
  rw [BitVec.toNat_append, ← Nat.shiftLeft_add_eq_or_of_lt y.isLt, Nat.shiftLeft_eq]

/-- R25: where the fields of `STATUS` stand. -/
theorem toNat_statusWord (s : State) :
    (statusWord s).toNat = s.abort.toNat + 2 * s.wvalid.toNat + 16 * s.cause.toNat := by
  rw [statusWord, toNat_append_eq_mul_add, toNat_append_eq_mul_add, toNat_append_eq_mul_add, toNat_append_eq_mul_add]
  simp only [BitVec.toNat_ofNat, BitVec.toNat_ofBool]
  omega

theorem csrRead_specified {s : State} {r : Reg} (hr : r ≠ .cmd) (hu : unspecified s r = false) :
    csrRead (regNumber r) s = .next { s with returned := s.returned ++ [regPattern s r] } := by
  rw [csrRead_regNumber hr, readRegister_of_specified hu]
  rfl

/-! ### Reading back what was written (R22, R90) -/

/-- A register of `bits` bits that a write has set to the low bits of `v`: the write completes, and the read returns them. -/
theorem read_after_write {s t : State} {v : HostValue} {r : Reg} {bits : Nat} (hr : r ≠ .cmd)
    (hwrite : csrWrite (regNumber r) v s = .next t) (hret : t.returned = s.returned) (hu : unspecified t r = false)
    (hpattern : regPattern t r = BitVec.ofNat 64 (v.toNat % 2 ^ bits)) :
    ∃ t u, csrWrite (regNumber r) v s = .next t ∧ csrRead (regNumber r) t = .next u ∧
      u = { t with returned := s.returned ++ [BitVec.ofNat 64 (v.toNat % 2 ^ bits)] } :=
  ⟨t, _, hwrite, csrRead_specified hr hu, by rw [hret, hpattern]⟩

theorem setWidth_setWidth_eq_ofNat {bits : Nat} (h : bits ≤ 64) (v : HostValue) :
    (v.setWidth bits).setWidth 64 = BitVec.ofNat 64 (v.toNat % 2 ^ bits) := by
  apply BitVec.eq_of_toNat_eq
  have hlt : v.toNat % 2 ^ bits < 2 ^ 64 := (Nat.mod_le _ _).trans_lt v.isLt
  rw [BitVec.toNat_setWidth_of_le h, BitVec.toNat_setWidth, BitVec.toNat_ofNat, Nat.mod_eq_of_lt hlt]

/-! ### The host's own accesses to memory (R50) -/

theorem bytesAt_storeBytes (m : Memory) (a : Nat) (bytes : List Byte) :
    Memory.bytesAt (Memory.storeBytes m a bytes) a bytes.length = bytes := by
  apply List.ext_getElem?
  intro j
  rw [getElem?_bytesAt]
  split_ifs with hj
  · exact byteAt_storeBytes_inside hj m a
  · exact (List.getElem?_eq_none (not_lt.1 hj)).symm

theorem hostStore_of_inside {a : Nat} {bytes : List Byte} {s : State} (h : a + bytes.length ≤ 2 ^ s.platform.aw) :
    hostStore a bytes s = .next (State.withMemory (Memory.storeBytes s.mem a bytes) s) := by
  simp [hostStore, inMemory, h]

theorem hostLoad_of_inside {a n : Nat} {s : State} (h : a + n ≤ 2 ^ s.platform.aw) :
    hostLoad a n s =
      .next { s with returned := s.returned ++ (Memory.bytesAt s.mem a n).map (fun b => b.setWidth 64) } := by
  simp [hostLoad, inMemory, h]

/-! ### The obligations -/

/-- Settles O9: each of the readable registers by its number, and its pattern as a number. -/
theorem readsReturnTheRegisterPattern : Obligations.ReadsReturnTheRegisterPattern := by
  intro s
  refine ⟨⟨_, csrRead_specified (r := .status) (by simp) rfl, ?_⟩,
    fun hs => csrRead_specified (r := .src) (by simp) (by simp [unspecified, hs]),
    fun hd => csrRead_specified (r := .dst) (by simp) (by simp [unspecified, hd]),
    ⟨_, csrRead_specified (r := .tapsnum) (by simp) rfl, BitVec.toNat_setWidth_of_le (by decide)⟩,
    fun k hk => ⟨_, csrRead_specified (r := .tap k) (by simp) (by rw [unspecified, hk]; rfl),
      toNat_setWidth_eq_toInt_emod (by decide) _⟩,
    fun hv j => ⟨⟨_, csrRead_specified (r := .w0 j) (by simp) (by simp [unspecified, hv]),
        toNat_setWidth_eq_toInt_emod (by decide) _⟩,
      ⟨_, csrRead_specified (r := .w1 j) (by simp) (by simp [unspecified, hv]),
        toNat_setWidth_eq_toInt_emod (by decide) _⟩⟩⟩
  rw [regPattern, BitVec.toNat_setWidth_of_le (by decide), toNat_statusWord]

/-- Settles O10: a write marks its register as written and leaves in it the value cut to its width. -/
theorem readAfterWriteReturnsTheTruncatedValue : Obligations.ReadAfterWriteReturnsTheTruncatedValue := by
  intro s v ha _ hv n bits hn
  have write := csrWrite_regNumber ha hv
  rcases hn with ⟨rfl, rfl⟩ | ⟨rfl, rfl⟩ | ⟨rfl, rfl⟩ | ⟨hlo, hhi, rfl⟩
  · exact read_after_write (r := .src) (by simp) (write .src) rfl rfl rfl
  · exact read_after_write (r := .dst) (by simp) (write .dst) rfl rfl rfl
  · exact read_after_write (r := .tapsnum) (by simp) (write .tapsnum) rfl rfl (setWidth_setWidth_eq_ofNat (by decide) v)
  · obtain ⟨k, rfl⟩ : ∃ k : Fin 12, n = regNumber (.tap k) := ⟨⟨n - 16, by omega⟩, by simp only [regNumber]; omega⟩
    refine read_after_write (by simp) ((write (.tap k)).trans (writeRegister_tap k v s)) rfl (by simp [unspecified]) ?_
    rw [← setWidth_setWidth_eq_ofNat (by decide) v]
    simp [regPattern]

/-- Settles O14: a run of stores read back, and the fault where the run leaves memory. -/
theorem hostMemoryAccess : Obligations.HostMemoryAccess := by
  refine fun s a bytes => ⟨fun hin => ?_, fun hout => ?_⟩
  · refine ⟨_, hostStore_of_inside hin, rfl, fun j hj => byteAt_storeBytes_inside hj _ _,
      fun b hb => byteAt_storeBytes_outside hb _, ?_⟩
    have hload := hostLoad_of_inside (s := State.withMemory (Memory.storeBytes s.mem a bytes) s) hin
    rwa [withMemory_mem, bytesAt_storeBytes] at hload
  · have hnot : ¬ a + bytes.length ≤ 2 ^ s.platform.aw := not_le.2 hout
    simp [hostStore, hostLoad, inMemory, hnot]

end Sys2Proof.Machine
end

section
/-! PROOF. The tile on any two loads (spec/42_vector_filter_base.md), the bytes its pixels depend on (R124), and what a filter
command issued again does (R217); then the remaining obligations on the filters. -/

namespace Sys2Proof.Machine

/-! ### The tile on any two loads (R113 to R122) -/

theorem getD_madd {p : List Byte} {w : List Elem} (hp : p.length = 16) (hw : w.length = 16) {m : Nat} (hm : m < 8) :
    (madd p w).getD m 0 = max (-32768) (min 32767 (((p.getD (2 * m) 0).toNat : Int) * (w.getD (2 * m) 0).toInt +
      ((p.getD (2 * m + 1) 0).toNat : Int) * (w.getD (2 * m + 1) 0).toInt)) := by
  rw [List.getD_eq_getElem?_getD, getElem?_madd (by omega) (by omega), Option.getD_some, maddPair, sat16_eq]

theorem getD_laneShift_madd {p : List Byte} {w : List Elem} (hp : p.length = 16) (hw : w.length = 16) {m : Nat}
    (hm : m < 7) : (laneShift (madd p w)).getD m 0 = (madd p w).getD (m + 1) 0 :=
  getD_laneShift _ _ (by rw [length_madd _ _ (hp.trans hw.symm), hp]; omega)

/-- R118 to R121 in one formula: rounding, shifting and narrowing the sum of six lanes. -/
theorem toNat_roundAndNarrow (t : Int) :
    ((roundAndNarrow t).toNat : Int) = max 0 (min 255 ((t * 256 + 16384) / 32768)) := by
  rw [roundAndNarrow, toNat_packUs, roundHi, shiftRightArith_fifteen]

/-! ### The last two columns (R124) -/

theorem madd_lane_of_zero_elems {p : List Byte} {w : List Elem} (hp : p.length = 16) (hw : w.length = 16) {m : Nat}
    (hm : m < 8) (h0 : w.getD (2 * m) 0 = 0) (h1 : w.getD (2 * m + 1) 0 = 0) : (madd p w)[m]? = some 0 := by
  rw [getElem?_madd (by omega) (by omega), h0, h1]
  simp [maddPair, sat16_eq]

/-- A window is zero behind its last tap. -/
theorem getD_window_above {offset n j : Nat} (taps : Vector Tap 12) (h : offset + n ≤ j) (hj : j < 16) :
    (window offset n taps).toList.getD j 0 = 0 := by
  rw [getD_window _ _ _ hj, windowElem, if_neg (by omega)]

theorem WindowsMatch.w0_above {s : State} (h : WindowsMatch s) {j : Nat} (hlo : 12 ≤ j) (hhi : j < 16) :
    s.w0.toList.getD j 0 = 0 := by
  have hspan := delta_add_tapsnum_le h.count
  rw [h.first]
  exact getD_window_above _ (by omega) hhi

theorem WindowsMatch.w1_above {s : State} (h : WindowsMatch s) {j : Nat} (hlo : 14 ≤ j) (hhi : j < 16) :
    s.w1.toList.getD j 0 = 0 := by
  have hspan := delta_add_tapsnum_le h.count
  rw [h.second]
  exact getD_window_above _ (by rw [Config.winShift]; omega) hhi

theorem WindowsMatch.madd_w0_last {s : State} (h : WindowsMatch s) {p : List Byte} (hp : p.length = 16) {m : Nat}
    (hlo : 6 ≤ m) (hhi : m < 8) : (madd p s.w0.toList)[m]? = some 0 :=
  madd_lane_of_zero_elems hp (by simp) hhi (h.w0_above (by omega) (by omega)) (h.w0_above (by omega) (by omega))

theorem WindowsMatch.row_w0 {s : State} (h : WindowsMatch s) {p : List Byte} (hp : p.length = 16) :
    (madd p s.w0.toList).length = 8 ∧ (madd p s.w0.toList)[6]? = some 0 ∧ (madd p s.w0.toList)[7]? = some 0 :=
  ⟨by rw [length_madd _ _ (by simp [hp]), hp], h.madd_w0_last hp (by decide) (by decide),
    h.madd_w0_last hp (by decide) (by decide)⟩

theorem WindowsMatch.row_w1 {s : State} (h : WindowsMatch s) {p : List Byte} (hp : p.length = 16) :
    (laneShift (madd p s.w1.toList)).length = 8 ∧ (laneShift (madd p s.w1.toList))[6]? = some 0 ∧
      (laneShift (madd p s.w1.toList))[7]? = some 0 := by
  obtain ⟨hlen, hlane, hlast⟩ :=
    laneShiftMovesOneLaneTowardZero (madd p s.w1.toList) (by rw [length_madd _ _ (by simp [hp]), hp])
  refine ⟨hlen, ?_, hlast⟩
  rw [hlane 6 (by decide)]
  exact madd_lane_of_zero_elems hp (by simp) (by decide) (h.w1_above (by decide) (by decide))
    (h.w1_above (by decide) (by decide))

/-! ### The bytes a pixel depends on (R59, R124) -/

theorem WindowsMatch.withMemory {s : State} (h : WindowsMatch s) (m : Memory) : WindowsMatch (State.withMemory m s) :=
  { h with }

/-- With matching windows a pixel of a tile is the reduction of its own six partial sums. -/
theorem tilePixel_eq_reduceSix {s : State} (h : WindowsMatch s) (q : Nat) {n : Nat} (hn : n < 4) :
    tilePixel s q n = roundAndNarrow (reduceSix (sat16 (exactPartial s (4 * q + n) 0))
      (sat16 (exactPartial s (4 * q + n) 1)) (sat16 (exactPartial s (4 * q + n) 2))
      (sat16 (exactPartial s (4 * q + n) 3)) (sat16 (exactPartial s (4 * q + n) 4))
      (sat16 (exactPartial s (4 * q + n) 5))) := by
  have lane {m : Nat} (hm : m < 6) := getD_partialSums h q hn hm
  rw [tilePixel, getD_tilePixels _ _ _ _ hn, reduceRow]
  simp (disch := decide) only [lane]

/-- The two memories agree on the bytes the scalar filter reads (R58). -/
def SameSource (width : Nat) (s : State) (m : Memory) : Prop :=
  ∀ j, j < width + s.tapsnum.toNat - 1 → Memory.byteAt m (s.src.toNat + j) = Memory.byteAt s.mem (s.src.toNat + j)

/-- R124: an element of the window is zero wherever the vector load holds a byte outside the scalar footprint. -/
theorem windowTerm_withMemory {width : Nat} {s : State} {m : Memory} (h : WindowsMatch s)
    (hmargin : delta s.tapsnum ≤ s.src.toNat) (hsame : SameSource width s m) {i : Nat} (hi : i < width) {j : Nat}
    (hj : j < 12) : windowTerm (State.withMemory m s) i j = windowTerm s i j := by
  by_cases hin : delta s.tapsnum ≤ j ∧ j < delta s.tapsnum + s.tapsnum.toNat
  · have hbyte := hsame (i + (j - delta s.tapsnum)) (by omega)
    rw [show s.src.toNat + (i + (j - delta s.tapsnum)) = s.src.toNat - delta s.tapsnum + i + j by omega] at hbyte
    simp only [windowTerm, withMemory_src, withMemory_tapsnum, withMemory_mem, withMemory_w0, hbyte]
  · rw [windowTerm_outside (h.withMemory m) i hj hin, windowTerm_outside h i hj hin]

theorem exactPartial_withMemory {width : Nat} {s : State} {m : Memory} (h : WindowsMatch s)
    (hmargin : delta s.tapsnum ≤ s.src.toNat) (hsame : SameSource width s m) {i : Nat} (hi : i < width) {k : Nat}
    (hk : k < 6) : exactPartial (State.withMemory m s) i k = exactPartial s i k := by
  rw [exactPartial_eq_windowTerms, exactPartial_eq_windowTerms, windowTerm_withMemory h hmargin hsame hi (by omega),
    windowTerm_withMemory h hmargin hsame hi (by omega)]

theorem tilePixel_withMemory {width : Nat} {s : State} {m : Memory} (h : WindowsMatch s)
    (hmargin : delta s.tapsnum ≤ s.src.toNat) (hsame : SameSource width s m) {q n : Nat} (hn : n < 4)
    (hi : 4 * q + n < width) : tilePixel (State.withMemory m s) q n = tilePixel s q n := by
  have lane {k : Nat} (hk : k < 6) := exactPartial_withMemory h hmargin hsame hi hk
  rw [tilePixel_eq_reduceSix (h.withMemory m) q hn, tilePixel_eq_reduceSix h q hn]
  simp (disch := decide) only [lane]

theorem scalarSum_withMemory {width : Nat} {s : State} {m : Memory} (hsame : SameSource width s m) {i : Nat}
    (hi : i < width) : scalarSum (State.withMemory m s) i = scalarSum s i := by
  refine congrArg List.sum (List.map_congr_left fun k hk => ?_)
  have hlt : k < s.tapsnum.toNat := List.mem_range.1 hk
  rw [withMemory_mem, withMemory_src, withMemory_taps, Nat.add_assoc, hsame (i + k) (by omega)]

/-! ### A filter command issued again (R217) -/

theorem FirsReady.withMemory {width : Nat} {s : State} (h : FirsReady width s) (m : Memory) :
    FirsReady width (State.withMemory m s) :=
  { h with addresses := ⟨h.addresses.src, h.addresses.dst⟩ }

theorem FirvReady.withMemory {width : Nat} {s : State} (h : FirvReady width s) (m : Memory) :
    FirvReady width (State.withMemory m s) :=
  { h.toFirvPosed.withMemory m with lent := h.lent }

/-- Output written over an earlier output of the same command leaves no trace of the earlier one. -/
theorem FilterOutput.again {width : Nat} {s : State} {pixel pixel' : Nat → Byte} {m m' : Memory}
    (h : FilterOutput width s pixel m) (h' : FilterOutput width (State.withMemory m s) pixel' m') :
    FilterOutput width s pixel' m' where
  inside := h'.inside
  outside a ha := (h'.outside a ha).trans (h.outside a ha)
  canonical hs := h'.canonical (h.canonical hs)

/-- An output placed clear of the scalar sources leaves them as they were. -/
theorem FilterOutput.sameSource {width : Nat} {s : State} {pixel : Nat → Byte} {m : Memory}
    (h : FilterOutput width s pixel m)
    (hplaced : FootprintsPlaced s.platform s.src.toNat (width + s.tapsnum.toNat - 1) s.dst.toNat width) :
    SameSource width s m :=
  fun _ hj => byteAt_of_lookup (h.outside _ (hplaced.source_outside hj))

/-- A command that would write the pixels that are already there changes nothing. -/
theorem FilterOutput.withMemory_again {width : Nat} {s : State} {pixel pixel' : Nat → Byte} {m m' : Memory}
    (hs : Memory.wf s.mem) (h : FilterOutput width s pixel m) (h' : FilterOutput width (State.withMemory m s) pixel' m')
    (hp : ∀ i < width, pixel' i = pixel i) : State.withMemory m' (State.withMemory m s) = State.withMemory m s := by
  rw [(h.again h').unique hs h hp]
  rfl

/-! ### The obligations -/

/-- Settles O28: the lanes of the tile's four rows are the given `c`, and the reduction is the model's own. -/
theorem tilePixelsFollowTheDatapath : Obligations.TilePixelsFollowTheDatapath := by
  intro p0 p1 w0 w1 hp0 hp1 hw0 hw1 c hc
  refine ⟨rfl, fun n hn => ?_⟩
  have lane {m : Nat} (hm : m < 6) : ((partialSums p0 p1 w0 w1).getD n []).getD m 0 = c n m := by
    rw [hc n m hn hm]
    have hrow : n = 0 ∨ n = 1 ∨ n = 2 ∨ n = 3 := by omega
    rcases hrow with rfl | rfl | rfl | rfl
    · exact getD_madd hp0 hw0 (by omega)
    · exact getD_madd hp1 hw0 (by omega)
    · exact (getD_laneShift_madd hp0 hw1 (by omega)).trans (getD_madd hp0 hw1 (by omega))
    · exact (getD_laneShift_madd hp1 hw1 (by omega)).trans (getD_madd hp1 hw1 (by omega))
  rw [getD_tilePixels _ _ _ _ hn, toNat_roundAndNarrow, reduceRow]
  simp (disch := decide) only [lane]
  rw [reduceSix, minLane_eq, maxLane_eq]

/-- Settles O29: behind the last tap the windows are zero, in `W0` from position 12 and in `W1` from position 14 on. -/
theorem lastTwoColumnsAreZero : Obligations.LastTwoColumnsAreZero := by
  intro s p0 p1 h hp0 hp1 r hr
  simp only [partialSums, List.mem_cons, List.not_mem_nil, or_false] at hr
  rcases hr with rfl | rfl | rfl | rfl
  · exact h.row_w0 hp0
  · exact h.row_w0 hp1
  · exact h.row_w1 hp0
  · exact h.row_w1 hp1

/-- Settles O30: under the condition only the last addition can saturate, and the clamp hides that. -/
theorem reductionIsExactUnderItsCondition : Obligations.ReductionIsExactUnderItsCondition := by
  intro c0 c1 c2 c3 c4 c5 h
  rw [reduceSix_of_exact h, roundAndNarrow_eq_outputPixel, outputPixel_sat16, toNat_outputPixel, roundedPixel]

/-- Settles O34: the bytes outside the scalar footprint meet zeros of the window, so every partial sum is the same. -/
theorem extraSourceBytesDoNotMatter : Obligations.ExtraSourceBytesDoNotMatter := by
  intro width s m hinv h hsame
  obtain ⟨m₁, hexec, hout⟩ := execFirv_output h
  obtain ⟨m₂, hexec', hout'⟩ := execFirv_output (h.withMemory m)
  refine ⟨_, _, hexec, hexec', fun i hi => ?_⟩
  have hpixel : tilePixel (State.withMemory m s) (i / 4) (i % 4) = tilePixel s (i / 4) (i % 4) :=
    tilePixel_withMemory (hinv.windows h.valid) h.margin hsame (Nat.mod_lt _ (by decide))
      (by rwa [Nat.div_add_mod])
  exact (hout'.byteAt hi).trans (hpixel.trans (hout.byteAt hi).symm)

/-- Settles O35: R127's bounds speak of the window alone, which another memory leaves matching. -/
theorem packSafeMakesEveryInputExact : Obligations.PackSafeMakesEveryInputExact :=
  fun width _ m h hsafe => inputExact_of_packSafe (h.withMemory m) hsafe width

/-- Settles O44: the first run leaves the source bytes, and so the second writes the pixels that are already there. -/
theorem repeatedFilterChangesNothing : Obligations.RepeatedFilterChangesNothing := by
  refine ⟨fun width s hinv hw h => ?_, fun width s hinv h => ?_⟩
  · obtain ⟨m, hexec, hout⟩ := execFirs_output hw h
    obtain ⟨m', hexec', hout'⟩ := execFirs_output hw (h.withMemory m)
    refine ⟨State.withMemory m s, hexec, hexec'.trans (congrArg _ ?_)⟩
    refine hout.withMemory_again hinv.memCanonical hout' fun i hi => ?_
    rw [scalarSum_withMemory (hout.sameSource h.placed) hi]
  · have hwin := hinv.windows h.valid
    obtain ⟨m, hexec, hout⟩ := execFirv_output h
    obtain ⟨m', hexec', hout'⟩ := execFirv_output (h.withMemory m)
    refine ⟨State.withMemory m s, hexec, hexec'.trans (congrArg _ ?_)⟩
    refine hout.withMemory_again hinv.memCanonical hout' fun i hi => ?_
    exact tilePixel_withMemory hwin h.margin (hout.sameSource (firsReady_of_firvReady h hwin).placed)
      (Nat.mod_lt _ (by decide)) (by rwa [Nat.div_add_mod])

end Sys2Proof.Machine
end
